-- ==== Sys2Proof/Word.lean ====
section
/-! DEFINITION. The word types of the block: bytes, the 16-bit counter, 32-bit words and addresses, 64-bit cursors
(00_scope R8: CNTW, AW, RW, POSW; R11: all quantities are unsigned, arithmetic on a `uW` wraps modulo `2^W`). -/

namespace Sys2Proof

/-- A byte of host memory or of the sample stream (00_scope R16). -/
abbrev Byte := BitVec 8

/-- A `u16`: the write-pointer counter (10_state R24). -/
abbrev Half := BitVec 16

/-- A `u32`: an instruction word, a physical address or a chip register (00_scope R8: AW = RW = 32). -/
abbrev Word := BitVec 32

/-- A `u64`: the reader's byte cursor and a READ's counts (00_scope R8: POSW = 64). -/
abbrev DWord := BitVec 64

/-- One past the last address of host physical memory (10_state R34: 2^32 bytes). -/
abbrev addressSpace : Nat := 4294967296

end Sys2Proof
end

