-- ==== Sys2Proof/Syntax.lean ====
section
/-! DEFINITION. The engine's instructions: one constructor of `Instr` per row of spec/opcode_table.json
(30_encoding R56: SYNC, WRITE and JUMP). -/

namespace Sys2Proof

/-- `CNT` on a SYNC (30_encoding R62): NONE leaves the counter, RESET sets it to 0. -/
inductive SyncCnt where
  | none
  | reset
  deriving DecidableEq, Repr

/-- `CNT` on a WRITE (30_encoding R62): NONE, INC ("more clusters follow") and LAST ("last cluster"). -/
inductive WriteCnt where
  | none
  | inc
  | last
  deriving DecidableEq, Repr

/-- The instruction set in scope (30_encoding R56). Operands are immediate fields of the instruction's own words
(10_state R20, 30_encoding R63). -/
inductive Instr where
  /-- SYNC (40_dma_engine R74). -/
  | sync (cnt : SyncCnt)
  /-- WRITE (40_dma_engine R75): flags, counter control, byte count and destination address. -/
  | write (sol eol irq1 : Bool) (cnt : WriteCnt) (count : BitVec 12) (dst : Word)
  /-- JUMP (40_dma_engine R78) to an absolute byte address. -/
  | jump (target : Word)
  deriving DecidableEq, Repr

/-- An instruction's length in bytes (30_encoding R58, R59, R60). -/
def Instr.lengthBytes : Instr → Nat
  | .sync _ => 4
  | .write _ _ _ _ _ _ => 8
  | .jump _ => 8

end Sys2Proof
end

