-- ==== Sys2Proof/WellFormed.lean ====
section
/-! DEFINITION. Which instruction terms have an encoding: the one operand restriction the spec puts on an
instruction's fields is a WRITE's byte count (30_encoding R64: a WRITE moves 1 to 4095 bytes). The alignment of a
JUMP target is no encoding restriction: the word decodes and the engine refuses it (40_dma_engine R79, log entry 32). -/

namespace Sys2Proof

/-- A WRITE's `COUNT` is 1 to 4095 (30_encoding R64); every SYNC and every JUMP term has an encoding. -/
def Instr.wellFormed : Instr → Bool
  | .sync _ => true
  | .write _ _ _ _ count _ => count != 0#12
  | .jump _ => true

end Sys2Proof
end

