-- ==== Sys2Proof/Decode.lean ====
section
/-! DEFINITION. Bytes to instructions and back (30_encoding): little-endian words (20_memory R37), the fields of the
control word `w0` (R57), the admitted forms (R65), every other word rejected by name (R67), the length taken from
`OP` alone (R61); then the encoder, from the same tables, and the assembler text of R70. -/

namespace Sys2Proof

/-! ## Byte order (20_memory R37) -/

/-- The word whose bits [7:0] stand at the lowest address. -/
def wordOfBytes (b0 b1 b2 b3 : Byte) : Word := b3 ++ b2 ++ b1 ++ b0

/-- A word's bytes in ascending address order. -/
def bytesOfWord (w : Word) : List Byte :=
  [w.extractLsb' 0 8, w.extractLsb' 8 8, w.extractLsb' 16 8, w.extractLsb' 24 8]

/-- The bytes of words laid out one after the other. -/
def bytesOfWords : List Word → List Byte
  | [] => []
  | w :: ws => bytesOfWord w ++ bytesOfWords ws

/-- The first four bytes as a word, and the bytes after them. -/
def takeWord : List Byte → Option (Word × List Byte)
  | b0 :: b1 :: b2 :: b3 :: rest => some (wordOfBytes b0 b1 b2 b3, rest)
  | _ => none

/-! ## Fields of the control word (30_encoding R57) -/

def fieldOp (w0 : Word) : BitVec 4 := w0.extractLsb' 28 4
def fieldSol (w0 : Word) : Bool := w0.getLsbD 27
def fieldEol (w0 : Word) : Bool := w0.getLsbD 26
def fieldIrq2 (w0 : Word) : Bool := w0.getLsbD 25
def fieldIrq1 (w0 : Word) : Bool := w0.getLsbD 24
def fieldReservedHi (w0 : Word) : BitVec 6 := w0.extractLsb' 18 6
def fieldCnt (w0 : Word) : BitVec 2 := w0.extractLsb' 16 2
def fieldReservedLo (w0 : Word) : BitVec 4 := w0.extractLsb' 12 4
def fieldCount (w0 : Word) : BitVec 12 := w0.extractLsb' 0 12

/-- The counter control a WRITE's `CNT` field names (30_encoding R62); 0b10 is reserved. -/
def writeCntOfBits (c : BitVec 2) : Option WriteCnt :=
  if c = 0b00#2 then some .none
  else if c = 0b01#2 then some .inc
  else if c = 0b11#2 then some .last
  else none

/-! ## The decoder -/

/-- Why a control word is no admitted form (30_encoding R67). -/
inductive Rejection where
  /-- An opcode other than 0b1000, 0b0001 and 0b0111. -/
  | opcode
  /-- A SYNC with a bit other than `OP` and `CNT` set, or with `CNT` 0b01 or 0b10. -/
  | syncForm
  /-- A WRITE with `IRQ2` set. -/
  | irq2
  /-- A WRITE with a reserved bit set. -/
  | reservedBits
  /-- A WRITE with `COUNT = 0`. -/
  | zeroCount
  /-- A WRITE with `CNT = 0b10`. -/
  | counterCode
  /-- A JUMP with a bit other than `OP` set. -/
  | jumpForm
  deriving DecidableEq, Repr

/-- What the decoder answers when it reads no instruction. -/
inductive DecodeError where
  /-- The bytes end before the instruction does. -/
  | short
  /-- The control word `w0` is no admitted form. -/
  | rejected (why : Rejection) (w0 : Word)
  deriving DecidableEq, Repr

/-- What a control word says before the second word is read (30_encoding R61). -/
inductive Control where
  | sync (cnt : SyncCnt)
  | write (sol eol irq1 : Bool) (cnt : WriteCnt) (count : BitVec 12)
  | jump
  deriving DecidableEq, Repr

/-- A SYNC's control word: exactly two admitted values (30_encoding R65). -/
def decodeSync (w0 : Word) : Except DecodeError Control :=
  if w0 = 0x80000000#32 then .ok (.sync .none)
  else if w0 = 0x80030000#32 then .ok (.sync .reset)
  else .error (.rejected .syncForm w0)

/-- A WRITE's control word (30_encoding R57, R65). -/
def decodeWrite (w0 : Word) : Except DecodeError Control :=
  if fieldIrq2 w0 = true then .error (.rejected .irq2 w0)
  else if fieldReservedHi w0 ≠ 0#6 then .error (.rejected .reservedBits w0)
  else if fieldReservedLo w0 ≠ 0#4 then .error (.rejected .reservedBits w0)
  else if fieldCount w0 = 0#12 then .error (.rejected .zeroCount w0)
  else match writeCntOfBits (fieldCnt w0) with
    | none => .error (.rejected .counterCode w0)
    | some cnt => .ok (.write (fieldSol w0) (fieldEol w0) (fieldIrq1 w0) cnt (fieldCount w0))

/-- A JUMP's control word: one admitted value (30_encoding R65). -/
def decodeJump (w0 : Word) : Except DecodeError Control :=
  if w0 = 0x70000000#32 then .ok .jump else .error (.rejected .jumpForm w0)

/-- The control word's meaning, by `OP` (30_encoding R61, R65). -/
def decodeControl (w0 : Word) : Except DecodeError Control :=
  if fieldOp w0 = 0b1000#4 then decodeSync w0
  else if fieldOp w0 = 0b0001#4 then decodeWrite w0
  else if fieldOp w0 = 0b0111#4 then decodeJump w0
  else .error (.rejected .opcode w0)

/-- The instruction at the head of a list of bytes, and the bytes after it. Total: bytes that end too early and
words that are no admitted form are rejected by name. -/
def decode (bytes : List Byte) : Except DecodeError (Instr × List Byte) :=
  match takeWord bytes with
  | none => .error .short
  | some (w0, rest) =>
    match decodeControl w0 with
    | .error e => .error e
    | .ok (.sync cnt) => .ok (.sync cnt, rest)
    | .ok (.write sol eol irq1 cnt count) =>
      match takeWord rest with
      | none => .error .short
      | some (w1, rest') => .ok (.write sol eol irq1 cnt count w1, rest')
    | .ok .jump =>
      match takeWord rest with
      | none => .error .short
      | some (w1, rest') => .ok (.jump w1, rest')

/-- The instruction as the host lays one out: the bits of `w` above `nbits` are 0, the words little-endian, the
first at the lowest address. -/
def decodeTableWord (nbits w : Nat) : Option Instr :=
  let v := w % 2 ^ nbits
  match decode (bytesOfWords [BitVec.ofNat 32 v, BitVec.ofNat 32 (v / 4294967296)]) with
  | .ok (i, _) => some i
  | .error _ => none

/-! ## The encoder -/

/-- The `CNT` field of a WRITE (30_encoding R62). -/
def writeCntBits : WriteCnt → BitVec 2
  | .none => 0b00#2
  | .inc => 0b01#2
  | .last => 0b11#2

/-- A SYNC's control word (30_encoding R65). -/
def syncWord : SyncCnt → Word
  | .none => 0x80000000#32
  | .reset => 0x80030000#32

/-- A WRITE's control word, field by field from bit 31 down (30_encoding R57). -/
def writeWord (sol eol irq1 : Bool) (cnt : WriteCnt) (count : BitVec 12) : Word :=
  0b0001#4 ++ BitVec.ofBool sol ++ BitVec.ofBool eol ++ 0#1 ++ BitVec.ofBool irq1 ++ 0#6 ++ writeCntBits cnt ++ 0#4
    ++ count

/-- A JUMP's control word (30_encoding R65). -/
def jumpWord : Word := 0x70000000#32

/-- An instruction's words in ascending address order. -/
def encode : Instr → List Word
  | .sync cnt => [syncWord cnt]
  | .write sol eol irq1 cnt count dst => [writeWord sol eol irq1 cnt count, dst]
  | .jump target => [jumpWord, target]

/-- An instruction's bytes in ascending address order (20_memory R37). -/
def encodeBytes (i : Instr) : List Byte := bytesOfWords (encode i)

/-! ## Assembler text (30_encoding R70) -/

/-- One hexadecimal digit. -/
def hexDigit (d : Nat) : Char := if d < 10 then Char.ofNat (48 + d) else Char.ofNat (55 + d)

/-- `0x` and the word's eight hexadecimal digits. -/
def hexWord (w : Word) : List Char :=
  '0' :: 'x' :: [7, 6, 5, 4, 3, 2, 1, 0].map fun k => hexDigit (w.toNat / 16 ^ k % 16)

/-- A number below 10000 in decimal, without leading zeros. -/
def decimal (n : Nat) : List Char :=
  let digits := [n / 1000 % 10, n / 100 % 10, n / 10 % 10].dropWhile (· == 0)
  (digits ++ [n % 10]).map fun d => Char.ofNat (48 + d)

/-- An operand's text where its flag is set, nothing where it is 0 or has its default. -/
def optionalText (present : Bool) (text : String) : List Char := if present then text.toList else []

/-- An instruction in the assembler syntax of 30_encoding R70, without the address in front. -/
def asmText : Instr → List Char
  | .sync cnt => "SYNC".toList ++ optionalText (cnt = .reset) " cnt=RESET"
  | .write sol eol irq1 cnt count dst =>
    "WRITE ".toList ++ decimal count.toNat ++ ", ".toList ++ hexWord dst
      ++ optionalText sol ", sol" ++ optionalText eol ", eol" ++ optionalText irq1 ", irq1"
      ++ optionalText (cnt = .inc) ", cnt=INC" ++ optionalText (cnt = .last) ", cnt=LAST"
  | .jump target => "JUMP ".toList ++ hexWord target

end Sys2Proof
end

