-- ==== Sys2Proof/Config.lean ====
section
/-! DEFINITION. What an instance of the block fixes (00_scope R8, the parameter table) and the free values (00_scope
R13: `choose x in S`, a draw under no law). The parameters are plain data and stand in `State` as `State.par`, since a
step has no other argument (log entry 1); no step changes them. The free values are constants without a body: nothing
can evaluate them, so what is proved holds whatever they are (log entry 6). -/

namespace Sys2Proof

/-- `LAST_CNT_EFFECT` (00_scope R8, 92 D7): what the "last cluster" tag does to the counter. -/
inductive LastCntEffect where
  | wrapInc
  | resetZero
  deriving DecidableEq, Repr

/-- The chip registers the block uses (10_state R30). -/
inductive Reg where
  | devCntrl
  | pciIntmsk
  | vidIntmsk
  | vidIntstat
  | dmaPtr
  | dmaCdtPtr
  | dmaCdtSize
  | gpcnt
  deriving DecidableEq, Repr

/-- The registers of 10_state R30, in its order. -/
def Reg.all : List Reg :=
  [.devCntrl, .pciIntmsk, .vidIntmsk, .vidIntstat, .dmaPtr, .dmaCdtPtr, .dmaCdtSize, .gpcnt]

/-- `REG_OFF(r)` (00_scope R8, 92 D26): one offset per register. -/
structure RegOffsets where
  devCntrl   : Nat
  pciIntmsk  : Nat
  vidIntmsk  : Nat
  vidIntstat : Nat
  dmaPtr     : Nat
  dmaCdtPtr  : Nat
  dmaCdtSize : Nat
  gpcnt      : Nat
  deriving DecidableEq, Repr

/-- `FIELD_BIT(f)` (00_scope R8): the bit position, 0 to 31, of each one-bit field; each register has one. -/
structure FieldBits where
  dmaEn    : Fin 32
  vidEn    : Fin 32
  irq1En   : Fin 32
  irq1Stat : Fin 32
  deriving DecidableEq, Repr

/-- The parameters of 00_scope R8 that it leaves OPEN or gives a default for. -/
structure Params where
  /-- `P`, page size in bytes. -/
  pageSize    : Nat
  /-- `PAGE_BASE(0) .. PAGE_BASE(N-1)`; `N` is the list's length. -/
  pageBases   : List Word
  /-- `K`, interrupt period in pages. -/
  irqPeriod   : Nat
  /-- `PROG_BASE`. -/
  progBase    : Word
  /-- `PROG_BUF_SIZE` in bytes. -/
  progBufSize : Nat
  /-- `CDT_BASE`. -/
  cdtBase     : Word
  lastCnt     : LastCntEffect
  regOff      : RegOffsets
  fieldBit    : FieldBits
  deriving DecidableEq, Repr

/-- `N`, the number of pages in the ring (00_scope R8). -/
def Params.numPages (p : Params) : Nat := p.pageBases.length

/-- `CS = P / 2`, the cluster size in bytes (00_scope R8). -/
def Params.clusterSize (p : Params) : Nat := p.pageSize / 2

/-- The size of the generated program in bytes, `16 N + 12` (00_scope R9, 41 R94). -/
def Params.programBytes (p : Params) : Nat := 16 * p.numPages + 12

/-- The size of the descriptor table in bytes, `8 N` (00_scope R9). -/
def Params.cdtBytes (p : Params) : Nat := 8 * p.numPages

/-- `REG_OFF(r)`. -/
def RegOffsets.off (o : RegOffsets) : Reg → Nat
  | .devCntrl => o.devCntrl
  | .pciIntmsk => o.pciIntmsk
  | .vidIntmsk => o.vidIntmsk
  | .vidIntstat => o.vidIntstat
  | .dmaPtr => o.dmaPtr
  | .dmaCdtPtr => o.dmaCdtPtr
  | .dmaCdtSize => o.dmaCdtSize
  | .gpcnt => o.gpcnt

/-- `n` is a power of two, at most `2^k`. -/
def isPow2UpTo (k n : Nat) : Bool := (List.range (k + 1)).any fun e => 2 ^ e == n

/-- An admitted number of pages: a power of two from 1 to 65536 (00_scope R8, 92 D11). -/
def ringSizeOk (n : Nat) : Bool := isPow2UpTo 16 n

/-- An admitted page size: a power of two from 2 to 4096 (00_scope R8, 92 D12). -/
def pageSizeOk (p : Nat) : Bool := decide (2 ≤ p) && isPow2UpTo 12 p

/-- `[a, a + n)` and `[b, b + m)` share no address. -/
abbrev Apart (a n b m : Nat) : Prop := a + n ≤ b ∨ b + m ≤ a

/-- A page is aligned to its size, ends inside the address space and is apart from the program buffer and the
descriptor table (00_scope R8). -/
def Params.pagePlaced (p : Params) (b : Word) : Bool :=
  decide (b.toNat % p.pageSize = 0 ∧ b.toNat + p.pageSize ≤ addressSpace ∧
    Apart b.toNat p.pageSize p.progBase.toNat p.progBufSize ∧
    Apart b.toNat p.pageSize p.cdtBase.toNat p.cdtBytes)

/-- The constraints 00_scope R8 puts on the parameters. -/
abbrev Params.Admissible (p : Params) : Prop :=
  pageSizeOk p.pageSize = true ∧
  ringSizeOk p.numPages = true ∧
  1 ≤ p.irqPeriod ∧
  p.progBase.toNat % 4 = 0 ∧
  p.progBase.toNat + p.programBytes ≤ addressSpace ∧
  p.programBytes ≤ p.progBufSize ∧
  p.cdtBase.toNat % 4 = 0 ∧
  p.cdtBase.toNat + p.cdtBytes ≤ addressSpace ∧
  p.pageBases.all p.pagePlaced = true ∧
  p.pageBases.Pairwise (fun b c => Apart b.toNat p.pageSize c.toNat p.pageSize) ∧
  (∀ r ∈ Reg.all, p.regOff.off r % 4 = 0) ∧
  (Reg.all.map p.regOff.off).Nodup

/-- The instantiation `State.reset` carries (DESIGN CHOICE, log entry 1): the defaults of 00_scope R8 where it gives
one (P = 4096, K = 0x200, WRAP_INC) and admissible values for what it leaves OPEN. -/
def Params.standard : Params where
  pageSize := 4096
  pageBases := [0x00000000, 0x00001000, 0x00002000, 0x00003000, 0x00004000, 0x00005000, 0x00006000, 0x00007000,
    0x00008000, 0x00009000, 0x0000A000, 0x0000B000, 0x0000C000, 0x0000D000, 0x0000E000, 0x0000F000]
  irqPeriod := 0x200
  progBase := 0x00010000
  progBufSize := 268
  cdtBase := 0x00020000
  lastCnt := .wrapInc
  regOff := ⟨0, 4, 8, 12, 16, 20, 24, 28⟩
  fieldBit := ⟨0, 0, 0, 0⟩

/-! ## Free values (00_scope R13) -/

/-- The sample byte of draw `n`, where the state supplies none (20_memory R44, 93 U3). -/
opaque Config.freeSample : Nat → Byte

/-- Whether draw `n`, an ALLOCATE, obtains its pages, where the state does not say (41 R84, 93 U4). -/
opaque Config.freeAlloc : Nat → Bool

/-- Whether draw `n`, a byte delivered, is accepted by the consumer, where the state does not say (42 R108, 93 U5). -/
opaque Config.freeSink : Nat → Bool

/-- The byte the consumer's destination holds at a place of a chunk that faulted, draw `n` (42 R110, 93 U6). -/
opaque Config.freeSpoiled : Nat → Byte

/-- What the out-of-scope bits of a register read back at draw `n` (10_state R30, 93 U21). -/
opaque Config.freeWord : Nat → Word

/-- `start_page` after the CLOSE of draw `n`, before it is brought into `0..N-1` (42 R114, 93 U22). -/
opaque Config.freePage : Nat → Nat

end Sys2Proof
end

