-- ==== Sys2Proof/Machine/State.lean ====
section
/-! DEFINITION. The block's state as plain data (10_state), the host's commands and the agents' turns, the reasons a
step can stop (60_exceptions R123), and the state after reset (70_reset R138). -/

namespace Sys2Proof.Machine

open Sys2Proof

/-- `eng_run` (10_state R21). -/
inductive EngRun where
  | stopped
  | running
  deriving DecidableEq, Repr

/-- `eng_phase` (10_state R23). -/
inductive EngPhase where
  /-- The next engine step fetches the instruction at `epc`. -/
  | atFetch
  /-- A WRITE whose control word is `w0` is moving `count` bytes to `dst`; `done` of them have landed. -/
  | inWrite (dst : Word) (done count : Nat) (w0 : Word)
  deriving DecidableEq, Repr

/-- `pool` (10_state R29). -/
inductive Pool where
  | unallocated
  | allocated
  deriving DecidableEq, Repr

/-- `sess` (10_state R26): `Idle` or `Open`. -/
inductive Session where
  | idle
  | opened
  deriving DecidableEq, Repr

/-- The phase of a READ in progress (10_state R28). `len` is the length of the chunk being moved, `i` the number of
its bytes already copied (in `copy`) or zeroed (in `zero`). -/
inductive ReadPhase where
  | scan
  | copy (len i : Nat)
  | zero (len i : Nat)
  | resample
  | waiting
  deriving DecidableEq, Repr

/-- `rd_ctx` of a READ in progress (10_state R28). -/
structure ReadCtx where
  max      : DWord
  blocking : Bool
  copied   : DWord
  prod     : Nat
  phase    : ReadPhase
  deriving DecidableEq, Repr

/-- What a host command returns (00_scope R14, 60 R121). -/
inductive Result where
  /-- `Ok`. -/
  | ok
  /-- `Ok(n)`: READ delivered `n` bytes. -/
  | okCount (n : DWord)
  | wouldBlock
  /-- `Fault(n)`: the consumer's destination rejected a byte; `n` bytes of committed chunks. -/
  | fault (n : DWord)
  | interrupted
  | resourceExhausted
  | configurationError
  | allocationError
  /-- Returned by no command in scope (60 R121). -/
  | invalidArgument
  deriving DecidableEq, Repr

/-- The code 60 R121 gives each result. -/
def Result.code : Result → Nat
  | .ok => 0
  | .okCount _ => 0
  | .wouldBlock => 1
  | .fault _ => 2
  | .interrupted => 3
  | .resourceExhausted => 4
  | .configurationError => 5
  | .allocationError => 6
  | .invalidArgument => 7

/-- The host's commands (30_encoding R69) and its accesses to the register window (00_scope R12, 60 R132). -/
inductive Command where
  | allocate (capacity pageSize : Nat)
  | free
  | buildCdt
  | buildProgram
  | start
  | stop
  | openSession
  | read (max : DWord) (blocking : Bool)
  | close
  /-- RegRead of the register at `offset`, `width` bits wide. -/
  | regRead (offset width : Nat)
  /-- RegWrite of `value` to the register at `offset`, `width` bits wide. -/
  | regWrite (offset width : Nat) (value : Word)
  deriving DecidableEq, Repr

/-- One entry of the interleaving: which agent of 00_scope R7 moves, and for the host with what. -/
inductive Turn where
  /-- The engine takes its step (40_dma_engine R71). -/
  | engine
  /-- The engine waits at a SYNC: one of the steps that change nothing (40_dma_engine R74). -/
  | syncWait
  /-- The host issues a command. -/
  | command (c : Command)
  /-- The host takes the next step of the READ in progress (42 R105). -/
  | reader
  /-- The acknowledger takes its step (60 R126). -/
  | ack
  /-- The host environment cancels a waiting READ (42 R112). -/
  | cancel
  deriving DecidableEq, Repr

/-- The answers the environment gives next, oldest first, and the number of free values drawn so far. Where a list is
empty, the answer is a free value: the constant of Config applied to `taken` (log entry 6). -/
structure Draws where
  /-- The next bytes of the sample stream (20_memory R44). -/
  samples : List Byte
  /-- Whether the next ALLOCATEs obtain their pages (41 R84). -/
  allocs  : List Bool
  /-- What the pages hold when the next ALLOCATEs obtain them (10_state R35; log entry 17). -/
  fills   : List (List Host.Cell)
  /-- Whether the consumer accepts the next bytes delivered (42 R108). -/
  sinks   : List Bool
  taken   : Nat
  deriving DecidableEq, Repr

/-- Host physical memory: (address, byte) pairs in one canonical form (`Memory.wf`): addresses strictly rising and
below 2^32, no byte equal to what an unlisted address reads as. -/
abbrev Memory := List Host.Cell

/-- What an address reads as that nothing has written: 0, in place of the spec's "unspecified" (10_state R35;
DESIGN CHOICE, unsafe, log entry 7). -/
def Memory.unlisted : Byte := 0

/-- An agent has no step, for good (60 R123, kind "stuck"; 20_memory R45). All are safe: the model stops in an
interleaving that lets a stuck agent move, where the block only stays as it is (log entry 4). -/
inductive Fault where
  /-- Raised by the engine's step: a word of the instruction at `epc` is outside the program buffer (20_memory R45). Safe. -/
  | fetchOutsideProgram (epc : Word)
  /-- Raised by the engine's step: `epc` is no multiple of 4, and no fetch is at one that is not (20_memory R40; log entry
  36). Safe. -/
  | misalignedFetch (epc : Word)
  /-- Raised by the engine's step: a WRITE of `count` bytes at `dst` is not inside one page of an allocated pool
  (20_memory R45, 40 R75). Safe. -/
  | writeOutsidePage (dst : Word) (count : Nat)
  /-- Raised by a READ's copy or zero step: byte `offset` of page `page` is not inside a page of an allocated pool
  (20_memory R45). Safe. -/
  | readOutsidePage (page offset : Nat)
  /-- Raised by BUILD_CDT and BUILD_PROGRAM: the region would pass the end of the address space, which no admissible
  parameters do (00_scope R8; 20_memory R45). Safe. -/
  | buildOutsideSpace (base size : Nat)
  deriving DecidableEq, Repr

/-- The model gives no meaning (60 R123, kind "refuse"; 00_scope R13). All are safe: nothing can be concluded of a
run that is refused. -/
inductive Refusal where
  /-- An instruction of the opcode table whose arm of exec has no meaning yet. Safe. -/
  | notModelled (mnemonic : String)
  /-- The engine's fetch of a word outside the admitted forms (40 R72, 30_encoding R67). Safe. -/
  | unmodelledInstruction (w0 : Word)
  /-- A WRITE with `dst + COUNT > 2^32` (40 R75). Safe. -/
  | writeCrossesTop (dst : Word) (count : Nat)
  /-- A JUMP with a target that is not a multiple of 4 (40 R79). Safe. -/
  | misalignedJumpTarget (target : Word)
  /-- A register access that is not 32 bits wide at a multiple of 4 (20_memory R39). Safe. -/
  | misalignedRegisterAccess
  /-- A build or ALLOCATE while Running (41 R97). Safe. -/
  | programWriteWhileRunning
  /-- ALLOCATE with the pool allocated (41 R84). Safe. -/
  | doubleAllocate
  /-- FREE while Running or with a session open (41 R85). Safe. -/
  | freeWhileInUse
  /-- START while Running (41 R98). Safe. -/
  | startWhileRunning
  /-- OPEN without a pool (42 R104). Safe. -/
  | openWithoutPool
  /-- READ with no session or during another READ (42 R105). Safe. -/
  | readWithoutSession
  /-- CLOSE with no session or during a READ (42 R114). Safe. -/
  | closeWithoutSession
  /-- BUILD_CDT or BUILD_PROGRAM without a pool: the spec refuses it and gives it no name (41 R86, R88, 70 R140;
  log entry 14). Safe. -/
  | buildWithoutPool
  /-- ALLOCATE of another geometry than the parameters' `N` and `P`, which 41 R84 says it must equal (log entry 12).
  Safe. -/
  | allocateOtherGeometry (capacity pageSize : Nat)
  /-- A register access at an offset that is no register of 10_state R30 (log entry 11). Safe. -/
  | registerOutOfScope (offset : Nat)
  deriving DecidableEq, Repr

/-- The machine's state: plain data, every piece of state the spec gives the block (10_state, 70_reset R138 and R141),
what R154 observes of it, and the model's own fields, named in their docstrings. -/
structure State where
  /-- The parameters of 00_scope R8; no step changes them (log entry 1). -/
  par : Params
  /-- Host physical memory (10_state R34): the program buffer, the descriptor table, the pages. -/
  mem : Memory
  /-- `eng_run` (10_state R21), which is also `DEV_CNTRL.DMA_EN` (10_state R30). -/
  engRun : EngRun
  /-- `epc`, the engine's program counter (10_state R22). -/
  epc : Word
  /-- `eng_phase`, the engine's progress through a WRITE (10_state R23). -/
  engPhase : EngPhase
  /-- `GPCNT`, the write-pointer counter (10_state R24). -/
  gpcnt : Half
  /-- `PCI_INTMSK.VID_EN` (10_state R30). -/
  vidEn : Bool
  /-- `VID_INTMSK.IRQ1_EN` (10_state R30). -/
  irq1En : Bool
  /-- `VID_INTSTAT.IRQ1_STAT` (10_state R25, R30). -/
  irq1Stat : Bool
  /-- `DMA_PTR` (10_state R30, R31). -/
  dmaPtr : Word
  /-- `DMA_CDT_PTR` (10_state R30, R31). -/
  dmaCdtPtr : Word
  /-- `DMA_CDT_SIZE` (10_state R30, R31). -/
  dmaCdtSize : Word
  /-- `pool` (10_state R29). -/
  pool : Pool
  /-- `cdt_built` (10_state R29). -/
  cdtBuilt : Bool
  /-- `prog_built` (10_state R29). -/
  progBuilt : Bool
  /-- `sess` (10_state R26). -/
  sess : Session
  /-- `start_page` (10_state R26). -/
  startPage : Nat
  /-- `pos`, the session's byte cursor (10_state R26). -/
  pos : DWord
  /-- `data_ready` (10_state R27). -/
  dataReady : Bool
  /-- `rd_ctx`, the READ in progress (10_state R28). -/
  rdCtx : Option ReadCtx
  /-- The spec's ghost flag `synced` (70_reset R141); no agent reads it. -/
  synced : Bool
  /-- The bytes delivered to the consumer, in order (10_state R34, 42 R108; log entry 15). -/
  sink : List Byte
  /-- The results the host's commands returned, oldest first (70_reset R154). -/
  results : List Result
  /-- The values RegRead returned to the host, oldest first (00_scope R12; log entry 10). -/
  regReads : List Word
  /-- Who moves next: the interleaving (00_scope R7; the model's own field, log entry 2). -/
  agenda : List Turn
  /-- The environment's answers not yet consumed (the model's own field, log entry 6). -/
  draws : Draws
  deriving DecidableEq, Repr

/-! ## One named update per field (their lemmas: Sys2Proof/Laws/State.lean) -/

def State.setMem (s : State) (v : Memory) : State := { s with mem := v }
def State.setEngRun (s : State) (v : EngRun) : State := { s with engRun := v }
def State.setEpc (s : State) (v : Word) : State := { s with epc := v }
def State.setEngPhase (s : State) (v : EngPhase) : State := { s with engPhase := v }
def State.setGpcnt (s : State) (v : Half) : State := { s with gpcnt := v }
def State.setVidEn (s : State) (v : Bool) : State := { s with vidEn := v }
def State.setIrq1En (s : State) (v : Bool) : State := { s with irq1En := v }
def State.setIrq1Stat (s : State) (v : Bool) : State := { s with irq1Stat := v }
def State.setDmaPtr (s : State) (v : Word) : State := { s with dmaPtr := v }
def State.setDmaCdtPtr (s : State) (v : Word) : State := { s with dmaCdtPtr := v }
def State.setDmaCdtSize (s : State) (v : Word) : State := { s with dmaCdtSize := v }
def State.setPool (s : State) (v : Pool) : State := { s with pool := v }
def State.setCdtBuilt (s : State) (v : Bool) : State := { s with cdtBuilt := v }
def State.setProgBuilt (s : State) (v : Bool) : State := { s with progBuilt := v }
def State.setSess (s : State) (v : Session) : State := { s with sess := v }
def State.setStartPage (s : State) (v : Nat) : State := { s with startPage := v }
def State.setPos (s : State) (v : DWord) : State := { s with pos := v }
def State.setDataReady (s : State) (v : Bool) : State := { s with dataReady := v }
def State.setRdCtx (s : State) (v : Option ReadCtx) : State := { s with rdCtx := v }
def State.setSynced (s : State) (v : Bool) : State := { s with synced := v }
def State.setSink (s : State) (v : List Byte) : State := { s with sink := v }
def State.setResults (s : State) (v : List Result) : State := { s with results := v }
def State.setRegReads (s : State) (v : List Word) : State := { s with regReads := v }
def State.setAgenda (s : State) (v : List Turn) : State := { s with agenda := v }
def State.setDraws (s : State) (v : Draws) : State := { s with draws := v }

/-- The machine right after reset (70_reset R138). The values the spec leaves unspecified are the model's (log
entries 7 and 8); the parameters are `Params.standard` (log entry 1); nothing is scheduled or drawn. -/
def State.reset : State where
  par := Params.standard
  mem := []
  engRun := .stopped
  epc := 0
  engPhase := .atFetch
  gpcnt := 0
  vidEn := false
  irq1En := false
  irq1Stat := false
  dmaPtr := 0
  dmaCdtPtr := 0
  dmaCdtSize := 0
  pool := .unallocated
  cdtBuilt := false
  progBuilt := false
  sess := .idle
  startPage := 0
  pos := 0
  dataReady := false
  rdCtx := none
  synced := false
  sink := []
  results := []
  regReads := []
  agenda := []
  draws := ⟨[], [], [], [], 0⟩

/-- What a step or a part of one answers. -/
abbrev Answer := Host.Outcome State Fault Refusal

end Sys2Proof.Machine
end

