-- ==== Sys2Proof/Machine/Ops.lean ====
section
/-! DEFINITION. The shared operations: host memory and its admitted regions (20_memory), the environment's draws
(00_scope R13), the register window (10_state R30), starting and stopping the engine, a command's result, and the
engine's instruction fetch (40_dma_engine R71). The block takes no exception and returns from none (60 R124, R129,
R130): there is no such operation; the interrupt's request, line and acknowledgement are in Flags.lean and Ack.lean. -/

namespace Sys2Proof.Machine

open Sys2Proof

/-! ## Host memory (10_state R34, 20_memory R37) -/

/-- One byte of host memory; memory reads have no side effect (20_memory R43). -/
def Memory.read : Memory → Nat → Byte
  | [], _ => Memory.unlisted
  | (k, c) :: m, a => if k = a then c else Memory.read m a

/-- One byte written, the canonical form kept: writing what an unlisted address reads as removes the entry. -/
def Memory.write : Memory → Nat → Byte → Memory
  | [], a, b => if b = Memory.unlisted then [] else [(a, b)]
  | (k, c) :: m, a, b =>
    if a < k then (if b = Memory.unlisted then (k, c) :: m else (a, b) :: (k, c) :: m)
    else if a = k then (if b = Memory.unlisted then m else (a, b) :: m)
    else (k, c) :: Memory.write m a b

/-- Every address is at least `lo`, below 2^32 and below the next one, and no entry is what an unlisted one reads as. -/
def Memory.wfFrom : Nat → Memory → Bool
  | _, [] => true
  | lo, (k, c) :: m => decide (lo ≤ k) && decide (k < addressSpace) && c != Memory.unlisted && Memory.wfFrom (k + 1) m

/-- The canonical form. -/
def Memory.wf (m : Memory) : Bool := Memory.wfFrom 0 m

/-- Bytes written in ascending address order. -/
def Memory.writeBytes : Memory → Nat → List Byte → Memory
  | m, _, [] => m
  | m, a, b :: bs => Memory.writeBytes (Memory.write m a b) (a + 1) bs

/-- `MemRead(a, 4)` (00_scope R12, 20_memory R37). -/
def Memory.readWord (m : Memory) (a : Nat) : Word :=
  wordOfBytes (m.read a) (m.read (a + 1)) (m.read (a + 2)) (m.read (a + 3))

/-- 32-bit words written one after the other, `MemWrite(a + 4 j, 4, w_j)` (20_memory R37, R42). -/
def Memory.writeWords (m : Memory) (a : Nat) (ws : List Word) : Memory := m.writeBytes a (bytesOfWords ws)

/-- `n` consecutive 32-bit words. -/
def Memory.readWords (m : Memory) : Nat → Nat → List Word
  | _, 0 => []
  | a, n + 1 => m.readWord a :: Memory.readWords m (a + 4) n

/-! ## Admitted regions (20_memory R45) -/

/-- `[a, a + len)` is inside the program buffer, `[PROG_BASE, PROG_BASE + PROG_BUF_SIZE)`. -/
def State.insideProgram (s : State) (a len : Nat) : Bool :=
  decide (s.par.progBase.toNat ≤ a) && decide (a + len ≤ s.par.progBase.toNat + s.par.progBufSize)
    && decide (a + len ≤ addressSpace)

/-- `[a, a + len)` is inside one page, `[PAGE_BASE(i), PAGE_BASE(i) + P)` for some `i`. -/
def pageCovers (p : Params) (a len : Nat) : Bool :=
  p.pageBases.any (fun b => decide (b.toNat ≤ a) && decide (a + len ≤ b.toNat + p.pageSize))
    && decide (a + len ≤ addressSpace)

/-- `[a, a + len)` is inside one page of an allocated pool. -/
def State.insidePage (s : State) (a len : Nat) : Bool :=
  decide (s.pool = .allocated) && pageCovers s.par a len

/-! ## Draws (00_scope R13; log entry 6) -/

/-- The state after one free value has been drawn. -/
def State.afterFree (s : State) : State := s.setDraws { s.draws with taken := s.draws.taken + 1 }

/-- `Sample(1)`: the next byte of the sample stream (20_memory R44). -/
def State.nextSample (s : State) : Byte :=
  match s.draws.samples with
  | [] => Config.freeSample s.draws.taken
  | b :: _ => b

/-- The state after that byte has been taken. -/
def State.afterSample (s : State) : State :=
  match s.draws.samples with
  | [] => s.afterFree
  | _ :: bs => s.setDraws { s.draws with samples := bs }

/-- Whether ALLOCATE obtains its pages (41 R84: `choose ok in {true, false}`). -/
def State.nextAlloc (s : State) : Bool :=
  match s.draws.allocs with
  | [] => Config.freeAlloc s.draws.taken
  | ok :: _ => ok

/-- The state after that choice. -/
def State.afterAlloc (s : State) : State :=
  match s.draws.allocs with
  | [] => s.afterFree
  | _ :: oks => s.setDraws { s.draws with allocs := oks }

/-- Whether the consumer's destination accepts the next byte (42 R108). -/
def State.nextSink (s : State) : Bool :=
  match s.draws.sinks with
  | [] => Config.freeSink s.draws.taken
  | ok :: _ => ok

/-- The state after that choice. -/
def State.afterSink (s : State) : State :=
  match s.draws.sinks with
  | [] => s.afterFree
  | _ :: oks => s.setDraws { s.draws with sinks := oks }

/-- The bytes of `cells` that lie in a page, written to memory. -/
def fillCells (p : Params) : Memory → List Host.Cell → Memory
  | m, [] => m
  | m, (a, b) :: cells => fillCells p (if pageCovers p a 1 then m.write a b else m) cells

/-- The pages obtained hold whatever the environment left in them (10_state R35; log entry 17). -/
def State.fillPages (s : State) : State :=
  match s.draws.fills with
  | [] => s
  | cells :: rest => (s.setMem (fillCells s.par s.mem cells)).setDraws { s.draws with fills := rest }

/-! ## The register window (10_state R30) -/

/-- `DEV_CNTRL.DMA_EN`, which equals `eng_run` (10_state R21). -/
def State.dmaEn (s : State) : Bool := decide (s.engRun = .running)

/-- Writing `DMA_EN` (10_state R30): 0->1 loads `epc <- DMA_PTR` and `eng_phase <- AtFetch` and runs the engine (41
R98), 1->0 stops it and abandons a WRITE in progress (41 R99), and a write of the value it has changes nothing. `epc`
and `eng_phase` are loaded whatever the engine was doing, so one that was stuck "for good" (60 R123) can step again after
STOP and START: DEDUCED from R98 and R99, log entry 4. -/
def State.writeDmaEn (s : State) (v : Bool) : State :=
  match s.engRun, v with
  | .stopped, true => ((s.setEpc s.dmaPtr).setEngPhase .atFetch).setEngRun .running
  | .running, false => (s.setEngPhase .atFetch).setEngRun .stopped
  | .stopped, false => s
  | .running, true => s

/-- A one-bit field at its place among bits that are not modelled and read as `free` (10_state R30, 93 U21). -/
def fieldAmong (bit : Fin 32) (v : Bool) (free : Word) : Word :=
  let at1 : Word := 1#32 <<< bit.val
  (free &&& ~~~at1) ||| (if v then at1 else 0#32)

/-- What a read of a register returns, `free` standing for the bits not modelled (10_state R30). -/
def State.regValue (s : State) (free : Word) : Reg → Word
  | .devCntrl => fieldAmong s.par.fieldBit.dmaEn s.dmaEn free
  | .pciIntmsk => fieldAmong s.par.fieldBit.vidEn s.vidEn free
  | .vidIntmsk => fieldAmong s.par.fieldBit.irq1En s.irq1En free
  | .vidIntstat => fieldAmong s.par.fieldBit.irq1Stat s.irq1Stat free
  | .dmaPtr => s.dmaPtr
  | .dmaCdtPtr => s.dmaCdtPtr
  | .dmaCdtSize => s.dmaCdtSize
  | .gpcnt => s.gpcnt.zeroExtend 32

/-- `RegWrite(r, v)` (00_scope R12): the effects of 10_state R30 and 20_memory R43; writes to read-only fields and to
bits not modelled are ignored; `IRQ1_STAT` is cleared by writing 1. -/
def State.storeReg (s : State) (r : Reg) (v : Word) : State :=
  match r with
  | .devCntrl => s.writeDmaEn (v.getLsbD s.par.fieldBit.dmaEn.val)
  | .pciIntmsk => s.setVidEn (v.getLsbD s.par.fieldBit.vidEn.val)
  | .vidIntmsk => s.setIrq1En (v.getLsbD s.par.fieldBit.irq1En.val)
  | .vidIntstat => s.setIrq1Stat (s.irq1Stat && !v.getLsbD s.par.fieldBit.irq1Stat.val)
  | .dmaPtr => s.setDmaPtr v
  | .dmaCdtPtr => s.setDmaCdtPtr v
  | .dmaCdtSize => s.setDmaCdtSize v
  | .gpcnt => s

/-- The register at an offset of the window, if it is one of 10_state R30. -/
def regAt (p : Params) (offset : Nat) : Option Reg := Reg.all.find? fun r => p.regOff.off r == offset

/-- A register access is 32 bits wide at a multiple of 4 (20_memory R39). -/
def regAccessOk (offset width : Nat) : Bool := width == 32 && offset % 4 == 0

/-! ## Results (70_reset R154) -/

/-- The host's command returned `r`. -/
def State.returned (s : State) (r : Result) : State := s.setResults (s.results ++ [r])

/-! ## Instruction fetch (40_dma_engine R71, 20_memory R42) -/

/-- The engine may fetch the word at `a`: a multiple of 4 (20_memory R40; log entry 36) inside the program buffer (R45). -/
def State.fetchable (s : State) (a : Nat) : Bool := a % 4 == 0 && s.insideProgram a 4

/-- The four bytes of the word at `a`, or none where the engine may not fetch it. -/
def State.fetchWordBytes (s : State) (a : Nat) : List Byte :=
  if s.fetchable a then [s.mem.read a, s.mem.read (a + 1), s.mem.read (a + 2), s.mem.read (a + 3)] else []

/-- The bytes the engine can read of an instruction at `epc`: its first word and, behind it, the word at `epc + 4`
(modulo 2^32, 10_state R22). A two-word instruction is two reads (20_memory R42). -/
def State.fetchBytes (s : State) : List Byte :=
  match s.fetchWordBytes s.epc.toNat with
  | [] => []
  | bytes => bytes ++ s.fetchWordBytes (s.epc + 4#32).toNat

end Sys2Proof.Machine
end

