-- ==== Sys2Proof/Machine/Flags.lean ====
section
/-! DEFINITION. The counter control and the interrupt request of a WRITE, and the interrupt line. The engine has no
condition codes; `IRQ1_STAT` is its only status bit (10_state R25). -/

namespace Sys2Proof.Machine

open Sys2Proof

/-- `irq_line` (10_state R32): a level, recomputed from the three fields. -/
def State.irqLine (s : State) : Bool := s.vidEn && s.irq1En && s.irq1Stat

/-- What the counter becomes under a WRITE's counter control (40_dma_engine R76). -/
def countedGpcnt (effect : LastCntEffect) (cnt : WriteCnt) (c : Half) : Half :=
  match cnt, effect with
  | .none, _ => c
  | .inc, _ => c + 1#16
  | .last, .wrapInc => c + 1#16
  | .last, .resetZero => 0#16

/-- A WRITE's counter control (40_dma_engine R76). -/
def State.applyCnt (s : State) (cnt : WriteCnt) : State := s.setGpcnt (countedGpcnt s.par.lastCnt cnt s.gpcnt)

/-- A WRITE's interrupt request (40_dma_engine R77): sets `IRQ1_STAT` whatever the masks; one already set stays set. -/
def State.applyIrq1 (s : State) (irq1 : Bool) : State := s.setIrq1Stat (s.irq1Stat || irq1)

end Sys2Proof.Machine
end

