-- ==== Sys2Proof/Machine/Ack.lean ====
section
/-! DEFINITION. The interrupt acknowledger (60_exceptions R126) and the host's own accesses to the register window
(00_scope R12, 60 R132). -/

namespace Sys2Proof.Machine

open Sys2Proof

/-- The acknowledger's step (60 R126), enabled when the line is up: it writes back the status it read, which clears
`IRQ1_STAT`, and sets `data_ready` if that bit was set. With the line down it has no step (log entry 3). -/
def ackStep (s : State) : Answer :=
  if s.irqLine then .next ((s.setIrq1Stat false).setDataReady (s.dataReady || s.irq1Stat)) else .next s

/-- RegRead by the host (00_scope R12, 20_memory R39, 60 R132): the bits not modelled read as a free value. -/
def hostRegRead (offset width : Nat) (s : State) : Answer :=
  if regAccessOk offset width = false then .refused .misalignedRegisterAccess
  else match regAt s.par offset with
    | none => .refused (.registerOutOfScope offset)
    | some r => .next (s.afterFree.setRegReads (s.regReads ++ [s.regValue (Config.freeWord s.draws.taken) r]))

/-- RegWrite by the host, which may write the RW registers (60 R132): one atomic access (20_memory R39, R42) with the
effect 10_state R30 gives it, on `DEV_CNTRL` too (R43, R46; log entry 10). -/
def hostRegWrite (offset width : Nat) (value : Word) (s : State) : Answer :=
  if regAccessOk offset width = false then .refused .misalignedRegisterAccess
  else match regAt s.par offset with
    | none => .refused (.registerOutOfScope offset)
    | some r => .next (s.storeReg r value)

end Sys2Proof.Machine
end

