-- ==== Sys2Proof/Machine/Operands.lean ====
section
/-! DEFINITION. The checks the engine makes on an instruction's operands. There are no register operands and no
addressing modes: COUNT, DST and TARGET are taken from the instruction's own words (30_encoding R63). -/

namespace Sys2Proof.Machine

open Sys2Proof

/-- `dst + COUNT > 2^32` (40_dma_engine R75). -/
def crossesTop (dst : Word) (count : Nat) : Bool := decide (addressSpace < dst.toNat + count)

/-- The address of byte `done` of a WRITE's range, computed without wrap (40_dma_engine R80). -/
def writeAddr (dst : Word) (done : Nat) : Nat := dst.toNat + done

/-- A JUMP's target is a multiple of 4 (40_dma_engine R79). -/
def targetAligned (target : Word) : Bool := target.extractLsb' 0 2 == 0#2

end Sys2Proof.Machine
end

