-- ==== Sys2Proof/Machine/Builder.lean ====
section
/-! DEFINITION. The host commands that set the producer up and take it down (41_program_builder): ALLOCATE, FREE,
BUILD_CDT, BUILD_PROGRAM, START, STOP. Each is one host step. -/

namespace Sys2Proof.Machine

open Sys2Proof

/-! ## What the builders write -/

/-- `CS` as an address displacement. -/
def clusterWord (p : Params) : Word := BitVec.ofNat 32 p.clusterSize

/-- `CS` as a WRITE's byte count (30_encoding R64). -/
def clusterCount (p : Params) : BitVec 12 := BitVec.ofNat 12 p.clusterSize

/-- The descriptor table (41 R86): per page, the entries of its low and of its high cluster slot. -/
def cdtEntries (p : Params) : List Word := p.pageBases.flatMap fun b => [b, b + clusterWord p]

/-- The two WRITEs of each page in order (41 R89), `irqt` being the builder's interrupt counter before the page
(R91); the last page's high half carries the last tag (R92). -/
def pageInstrs (p : Params) : Nat → List Word → List Instr
  | _, [] => []
  | irqt, b :: rest =>
    .write true true false .none (clusterCount p) b ::
      .write true true ((irqt + 1) % p.irqPeriod == 0) (if rest.isEmpty then .last else .inc) (clusterCount p)
        (b + clusterWord p) ::
      pageInstrs p ((irqt + 1) % p.irqPeriod) rest

/-- The generated program (41 R89): one SYNC with RESET (R90), the pages' WRITEs, one JUMP past the SYNC (R93). -/
def programInstrs (p : Params) : List Instr :=
  .sync .reset :: (pageInstrs p 0 p.pageBases ++ [.jump (p.progBase + 4#32)])

/-- The generated program's words. -/
def programWords (p : Params) : List Word := (programInstrs p).flatMap encode

/-- A WRITE's destination, nothing for the other instructions. -/
def writeDst : Instr → Option Word
  | .write _ _ _ _ _ dst => some dst
  | .sync _ => none
  | .jump _ => none

/-- `cdt_matches()` (41 R96): the `2N` entries in memory equal the program's WRITE destinations in program order. -/
def State.cdtMatches (s : State) : Bool :=
  s.mem.readWords s.par.cdtBase.toNat (2 * s.par.numPages) == (programInstrs s.par).filterMap writeDst

/-! ## The commands -/

/-- ALLOCATE (41 R84). -/
def allocate (capacity pageSize : Nat) (s : State) : Answer :=
  if s.engRun = .running then .refused .programWriteWhileRunning
  else if s.pool = .allocated then .refused .doubleAllocate
  else if pageSizeOk pageSize = false then .next (s.returned .configurationError)
  else if capacity % pageSize ≠ 0 then .next (s.returned .configurationError)
  else if pageSize ≠ s.par.pageSize ∨ capacity / pageSize ≠ s.par.numPages then
    .refused (.allocateOtherGeometry capacity pageSize)
  else if s.nextAlloc then .next ((s.afterAlloc.fillPages.setPool .allocated).returned .ok)
  else .next (s.afterAlloc.returned .allocationError)

/-- FREE (41 R85). -/
def free (s : State) : Answer :=
  if s.engRun = .running ∨ s.sess = .opened then .refused .freeWhileInUse
  else .next ((((s.setPool .unallocated).setCdtBuilt false).setProgBuilt false).returned .ok)

/-- BUILD_CDT (41 R86). -/
def buildCdt (s : State) : Answer :=
  if s.engRun = .running then .refused .programWriteWhileRunning
  else if s.pool = .unallocated then .refused .buildWithoutPool
  else if ringSizeOk s.par.numPages = false then .next (s.returned .configurationError)
  else if addressSpace < s.par.cdtBase.toNat + s.par.cdtBytes then
    .fault (.buildOutsideSpace s.par.cdtBase.toNat s.par.cdtBytes)
  else
    .next (((s.setMem (s.mem.writeWords s.par.cdtBase.toNat (cdtEntries s.par))).setCdtBuilt true).returned .ok)

/-- BUILD_PROGRAM (41 R88). -/
def buildProgram (s : State) : Answer :=
  if s.engRun = .running then .refused .programWriteWhileRunning
  else if s.pool = .unallocated then .refused .buildWithoutPool
  else if ringSizeOk s.par.numPages = false then .next (s.returned .configurationError)
  else if s.par.progBufSize < s.par.programBytes then .next (s.returned .configurationError)
  else if s.cdtBuilt = true ∧ s.cdtMatches = false then .next (s.returned .configurationError)
  else if addressSpace < s.par.progBase.toNat + s.par.programBytes then
    .fault (.buildOutsideSpace s.par.progBase.toNat s.par.programBytes)
  else
    .next (((s.setMem (s.mem.writeWords s.par.progBase.toNat (programWords s.par))).setProgBuilt true).returned .ok)

/-- START's register writes in their order (41 R98), the engine enable last; the ghost `synced` falls (70_reset R141). -/
def State.launch (s : State) : State :=
  let s1 := s.storeReg .vidIntstat (1#32 <<< s.par.fieldBit.irq1Stat.val)
  let s2 := s1.storeReg .dmaPtr s1.par.progBase
  let s3 := s2.storeReg .dmaCdtPtr s2.par.cdtBase
  let s4 := s3.storeReg .dmaCdtSize (BitVec.ofNat 32 s3.par.cdtBytes)
  let s5 := s4.setVidEn true
  let s6 := s5.writeDmaEn true
  s6.setSynced false

/-- START (41 R98). -/
def start (s : State) : Answer :=
  if s.engRun = .running then .refused .startWhileRunning
  else if s.pool = .unallocated ∨ s.cdtBuilt = false ∨ s.progBuilt = false then
    .next (s.returned .configurationError)
  else .next (s.launch.returned .ok)

/-- STOP (41 R99). -/
def stop (s : State) : Answer := .next ((s.writeDmaEn false).returned .ok)

end Sys2Proof.Machine
end

