-- ==== Sys2Proof/Machine/Engine.lean ====
section
/-! DEFINITION. What the engine's instructions do (40_dma_engine): SYNC, the first step of a WRITE and its byte
steps, JUMP. -/

namespace Sys2Proof.Machine

open Sys2Proof

/-- SYNC (40_dma_engine R74): RESET sets the counter to 0 and the ghost `synced` (70_reset R141); `epc + 4`. The
steps it may first wait are turns of their own (`Turn.syncWait`, log entry 18). -/
def execSync (cnt : SyncCnt) (s : State) : Answer :=
  match cnt with
  | .none => .next (s.setEpc (s.epc + 4#32))
  | .reset => .next (((s.setGpcnt 0#16).setSynced true).setEpc (s.epc + 4#32))

/-- WRITE's first step (40_dma_engine R75): the checks, in the rule's order, then the transfer begins. A `COUNT` of 0
is no admitted form (30_encoding R64); the decoder never gives one. -/
def execWrite (sol eol irq1 : Bool) (cnt : WriteCnt) (count : BitVec 12) (dst : Word) (s : State) : Answer :=
  if count = 0#12 then .refused (.unmodelledInstruction (writeWord sol eol irq1 cnt count))
  else if crossesTop dst count.toNat then .refused (.writeCrossesTop dst count.toNat)
  else if s.insidePage dst.toNat count.toNat then
    .next (s.setEngPhase (.inWrite dst 0 count.toNat (writeWord sol eol irq1 cnt count)))
  else .fault (.writeOutsidePage dst count.toNat)

/-- JUMP (40_dma_engine R78, R79). -/
def execJump (target : Word) (s : State) : Answer :=
  if targetAligned target then .next (s.setEpc target) else .refused (.misalignedJumpTarget target)

/-- The next sample lands at `a` (40_dma_engine R75: `MemWrite(a, 1, Sample(1))`). -/
def State.landSample (s : State) (a : Nat) : State := s.afterSample.setMem (s.mem.write a s.nextSample)

/-- The end of a WRITE (40_dma_engine R75): counter control, then the interrupt request, `epc + 8`, `AtFetch`. A `w0`
with the reserved counter code, which no run brings here, is refused as the fetch of it is (log entry 23). -/
def finishWrite (w0 : Word) (s : State) : Answer :=
  match writeCntOfBits (fieldCnt w0) with
  | none => .refused (.unmodelledInstruction w0)
  | some cnt =>
    .next ((((s.applyCnt cnt).applyIrq1 (fieldIrq1 w0)).setEpc (s.epc + 8#32)).setEngPhase .atFetch)

/-- A later step of a WRITE (40_dma_engine R75): one byte lands; after the last the WRITE ends. Each byte is an access
of its own and needs the admitted region (20_memory R42, R45). -/
def writeByteStep (dst : Word) (done count : Nat) (w0 : Word) (s : State) : Answer :=
  if s.insidePage (writeAddr dst done) 1 then
    if done + 1 = count then finishWrite w0 (s.landSample (writeAddr dst done))
    else .next ((s.landSample (writeAddr dst done)).setEngPhase (.inWrite dst (done + 1) count w0))
  else .fault (.writeOutsidePage dst count)

end Sys2Proof.Machine
end

