-- ==== Sys2Proof/Machine/Dispatch.lean ====
section
/-! DEFINITION. One arm per instruction of the opcode table. -/

namespace Sys2Proof.Machine

open Sys2Proof

def exec (i : Instr) (s : State) : Host.Outcome State Fault Refusal :=
  match i with
  | .sync cnt => Sys2Proof.Machine.execSync cnt s
  | .write sol eol irq1 cnt count dst => Sys2Proof.Machine.execWrite sol eol irq1 cnt count dst s
  | .jump target => Sys2Proof.Machine.execJump target s

end Sys2Proof.Machine
end

