-- ==== Sys2Proof/Machine/Reader.lean ====
section
/-! DEFINITION. The ring reader (42_ring_reader): OPEN, the steps of a READ, cancellation, CLOSE. -/

namespace Sys2Proof.Machine

open Sys2Proof

/-! ## Index arithmetic -/

/-- `page_of(c) = c mod N` (42 R100). -/
def pageOf (numPages : Nat) (c : Half) : Nat := c.toNat % numPages

/-- `producer_page(c) = (page_of(c) + N - 1) mod N`, the "subtract one" rule (42 R101). -/
def producerPage (numPages : Nat) (c : Half) : Nat := (pageOf numPages c + numPages - 1) % numPages

/-- `current_page` of a session's `start_page` and `pos` (42 R102). -/
def currentPageOf (p : Params) (startPage : Nat) (pos : DWord) : Nat :=
  (startPage + pos.toNat / p.pageSize) % p.numPages

/-- `current_page` (42 R102). -/
def State.currentPage (s : State) : Nat := currentPageOf s.par s.startPage s.pos

/-- The page one counter sample names as the producer's (42 R101, R106). -/
def State.sampledPage (s : State) : Nat := producerPage s.par.numPages s.gpcnt

/-- `pos mod P`, the offset in the current page (42 R103). -/
def State.pageOffset (s : State) : Nat := s.pos.toNat % s.par.pageSize

/-- The address of byte `i` of the chunk at the cursor (42 R108, R109); none where there is no such page. -/
def State.chunkAddr (s : State) (i : Nat) : Option Nat :=
  match s.par.pageBases[s.currentPage]? with
  | none => none
  | some b => some (b.toNat + s.pageOffset + i)

/-- That address where the host may access it (20_memory R45). -/
def State.readableAddr (s : State) (i : Nat) : Option Nat :=
  match s.chunkAddr i with
  | none => none
  | some a => if s.insidePage a 1 then some a else none

/-! ## OPEN and CLOSE -/

/-- OPEN (42 R104). -/
def openSession (s : State) : Answer :=
  if s.pool = .unallocated then .refused .openWithoutPool
  else if s.sess = .opened then .next (s.returned .resourceExhausted)
  else
    .next (((((((s.setStartPage s.sampledPage).setPos 0#64).setDataReady false).setIrq1En true).setSess .opened)).returned .ok)

/-- CLOSE (42 R114). `start_page` becomes unspecified: a free value (93 U22, log entry 16). -/
def close (s : State) : Answer :=
  if s.sess = .idle ∨ s.rdCtx ≠ none then .refused .closeWithoutSession
  else
    .next (((((s.setIrq1En false).setSess .idle).setStartPage (Config.freePage s.draws.taken % s.par.numPages)).afterFree).returned .ok)

/-! ## READ -/

/-- READ's entry step (42 R105, R106): one counter sample; a non-blocking READ with nothing ready returns at once. -/
def readEntry (max : DWord) (blocking : Bool) (s : State) : Answer :=
  if s.sess = .idle ∨ s.rdCtx ≠ none then .refused .readWithoutSession
  else if s.currentPage = s.sampledPage ∧ blocking = false then .next (s.returned .wouldBlock)
  else .next (s.setRdCtx (some ⟨max, blocking, 0#64, s.sampledPage, .scan⟩))

/-- The READ in progress goes on in another phase. -/
def State.setReadPhase (s : State) (c : ReadCtx) (ph : ReadPhase) : State := s.setRdCtx (some { c with phase := ph })

/-- The READ ends with `r` (42 R113). -/
def State.endRead (s : State) (r : Result) : State := (s.setRdCtx none).returned r

/-- The length of the chunk that starts now: the lesser of the bytes left in the page and the bytes still requested
(42 R107). -/
def State.chunkLen (s : State) (c : ReadCtx) : Nat := min (s.par.pageSize - s.pageOffset) (c.max - c.copied).toNat

/-- The scan step (42 R107). -/
def readScan (c : ReadCtx) (s : State) : Answer :=
  if c.copied < c.max ∧ s.currentPage ≠ c.prod then .next (s.setReadPhase c (.copy (s.chunkLen c) 0))
  else if c.copied = c.max ∨ c.blocking = false then .next (s.endRead (.okCount c.copied))
  else .next (s.setReadPhase c .resample)

/-- `n` free bytes, one per place of a chunk that faulted. -/
def State.spoiledBytes (s : State) (n : Nat) : List Byte :=
  (List.range n).map fun k => Config.freeSpoiled (s.draws.taken + k)

/-- What the consumer's destination holds once byte `i` of a chunk of `len` bytes is rejected (42 R110, 93 U6): the
chunks committed before, and any value at each place of the failing one, those delivered before the rejection among
them (log entry 15). -/
def State.spoilChunk (s : State) (len i : Nat) : State :=
  (s.setSink (s.sink.take (s.sink.length - i) ++ s.spoiledBytes len)).setDraws
    { s.draws with taken := s.draws.taken + len }

/-- Byte `i` of the chunk goes to the consumer, or the consumer rejects it (42 R108, R110). -/
def readCopy (c : ReadCtx) (len i : Nat) (s : State) : Answer :=
  match s.readableAddr i with
  | none => .fault (.readOutsidePage s.currentPage (s.pageOffset + i))
  | some a =>
    if s.nextSink then
      .next ((s.afterSink.setSink (s.sink ++ [s.mem.read a])).setReadPhase c (if i + 1 < len then .copy len (i + 1) else .zero len 0))
    else
      .next ((s.afterSink.spoilChunk len i).endRead (.fault c.copied))

/-- The chunk is committed (42 R109). -/
def State.commitChunk (s : State) (c : ReadCtx) (len : Nat) : State :=
  (s.setPos (s.pos + BitVec.ofNat 64 len)).setRdCtx (some { c with copied := c.copied + BitVec.ofNat 64 len, phase := .scan })

/-- Poison-after-read: byte `i` of the chunk is zeroed; after the last the chunk is committed (42 R109). -/
def readZero (c : ReadCtx) (len i : Nat) (s : State) : Answer :=
  match s.readableAddr i with
  | none => .fault (.readOutsidePage s.currentPage (s.pageOffset + i))
  | some a =>
    if i + 1 < len then .next ((s.setMem (s.mem.write a 0#8)).setReadPhase c (.zero len (i + 1)))
    else .next ((s.setMem (s.mem.write a 0#8)).commitChunk c len)

/-- The resample step of a blocking READ (42 R111): clear `data_ready`, then sample the counter. -/
def readResample (c : ReadCtx) (s : State) : Answer :=
  .next ((s.setDataReady false).setRdCtx
    (some { c with prod := s.sampledPage, phase := if s.currentPage ≠ s.sampledPage then .scan else .waiting }))

/-- The waiting phase has a step only when `data_ready` is set (42 R111); otherwise nothing changes (log entry 3). -/
def readWaiting (c : ReadCtx) (s : State) : Answer :=
  if s.dataReady then .next (s.setReadPhase c .resample) else .next s

/-- The host's next step of the READ in progress (42 R105); with none in progress nothing changes (log entry 3). -/
def readerStep (s : State) : Answer :=
  match s.rdCtx with
  | none => .next s
  | some c =>
    match c.phase with
    | .scan => readScan c s
    | .copy len i => readCopy c len i s
    | .zero len i => readZero c len i s
    | .resample => readResample c s
    | .waiting => readWaiting c s

/-- The Cancel agent's step (42 R112): it ends a waiting READ; in any other phase it has none (log entry 3). -/
def cancelStep (s : State) : Answer :=
  match s.rdCtx with
  | none => .next s
  | some c => if c.phase = .waiting then .next (s.endRead .interrupted) else .next s

end Sys2Proof.Machine
end

