-- ==== Sys2Proof/Machine/Agents.lean ====
section
/-! DEFINITION. Each agent's step (00_scope R7), and placing an instruction where the engine fetches next. -/

namespace Sys2Proof.Machine

open Sys2Proof

/-- The engine's step in phase `AtFetch` (40_dma_engine R71): the instruction at `epc` is executed; a fetch outside
the program buffer or at no multiple of 4 (20_memory R40) is stuck, a word that is no admitted form is refused before any state changes (R72). -/
def fetchStep (s : State) : Answer :=
  match decode s.fetchBytes with
  | .ok (i, _) => exec i s
  | .error .short => .fault (if s.epc.toNat % 4 = 0 then .fetchOutsideProgram s.epc else .misalignedFetch s.epc)
  | .error (.rejected _ w0) => .refused (.unmodelledInstruction w0)

/-- The engine's step (40_dma_engine R71): a stopped engine has none and nothing changes (log entry 3). -/
def engineStep (s : State) : Answer :=
  match s.engRun with
  | .stopped => .next s
  | .running =>
    match s.engPhase with
    | .atFetch => fetchStep s
    | .inWrite dst done count w0 => writeByteStep dst done count w0 s

/-- A host command (30_encoding R69; 00_scope R12). -/
def commandStep (c : Command) (s : State) : Answer :=
  match c with
  | .allocate capacity pageSize => allocate capacity pageSize s
  | .free => free s
  | .buildCdt => buildCdt s
  | .buildProgram => buildProgram s
  | .start => start s
  | .stop => stop s
  | .openSession => openSession s
  | .read max blocking => readEntry max blocking s
  | .close => close s
  | .regRead offset width => hostRegRead offset width s
  | .regWrite offset width value => hostRegWrite offset width value s

/-- The step of the agent whose turn it is (00_scope R7). A SYNC's wait changes nothing (40_dma_engine R74). -/
def turnStep (t : Turn) (s : State) : Answer :=
  match t with
  | .engine => engineStep s
  | .syncWait => .next s
  | .command c => commandStep c s
  | .reader => readerStep s
  | .ack => ackStep s
  | .cancel => cancelStep s

/-- The agent that moves next and the agenda after it: the agenda's head; with nothing scheduled the engine, which
runs autonomously (40_dma_engine, introduction; log entry 2). -/
def State.nextTurn (s : State) : Turn × List Turn :=
  match s.agenda with
  | [] => (.engine, [])
  | t :: rest => (t, rest)

/-- The bytes of an instruction of `nbits` bits at the start of the program buffer, and a running engine about to
fetch there with its pool allocated: what START leaves, on a program loaded from outside (log entry 24). -/
def State.placeInstruction (s : State) (nbits w : Nat) : State :=
  let v := w % 2 ^ nbits
  let words : List Word := [BitVec.ofNat 32 v, BitVec.ofNat 32 (v / 4294967296)]
  (((((s.setMem (s.mem.writeWords s.par.progBase.toNat words)).setPool .allocated).setEngRun .running).setEngPhase .atFetch).setEpc
    s.par.progBase).setAgenda (.engine :: s.agenda)

end Sys2Proof.Machine
end

