-- ==== Sys2Proof/Safety.lean ====
section
/-! DEFINITION. What claims about the block are stated in: the states the spec admits at reset (70_reset R138), the
invariants of its runs, several steps in a row, and runs under a schedule with the fairness the spec assumes
(40_dma_engine R73, 60 R127). -/

namespace Sys2Proof.Machine

open Sys2Proof

/-! ## Reset -/

/-- A state the spec admits right after reset (70_reset R138): every element with a reset value has it, every other
one is a draw. `State.reset` is one of them. -/
abbrev State.IsReset (s : State) : Prop :=
  s.engRun = .stopped ∧ s.engPhase = .atFetch ∧ s.sess = .idle ∧ s.pos = 0#64 ∧ s.dataReady = false ∧
  s.rdCtx = none ∧ s.pool = .unallocated ∧ s.cdtBuilt = false ∧ s.progBuilt = false ∧
  s.vidEn = false ∧ s.irq1En = false ∧ s.synced = false

/-! ## Invariants -/

/-- Memory is in its canonical form. -/
abbrev State.MemOk (s : State) : Prop := s.mem.wf = true

/-- The engine's program counter is a multiple of 4 while it runs (10_state R22, 20_memory R40). -/
abbrev State.EpcAligned (s : State) : Prop :=
  s.par.progBase.toNat % 4 = 0 ∧ (s.engRun = .running → s.epc.toNat % 4 = 0)

/-- The step from `s` to `t` starts the engine by the host's own write of `DMA_EN` (10_state R30), not by START. -/
abbrev RawStart (s t : State) : Prop :=
  s.engRun = .stopped ∧ t.engRun = .running ∧ s.nextTurn.1 ≠ .command .start

/-- What a phase of a READ presumes (42 R107 to R111): a chunk lies in the current page, fits the request and is not
in the producer's page; only a blocking READ with bytes still requested resamples or waits. -/
def ReadPhaseOk (s : State) (c : ReadCtx) : ReadPhase → Prop
  | .scan => True
  | .copy len i => i < len ∧ len + s.pageOffset ≤ s.par.pageSize ∧ c.copied.toNat + len ≤ c.max.toNat ∧
      s.currentPage ≠ c.prod
  | .zero len i => i < len ∧ len + s.pageOffset ≤ s.par.pageSize ∧ c.copied.toNat + len ≤ c.max.toNat ∧
      s.currentPage ≠ c.prod
  | .resample => c.blocking = true ∧ c.copied < c.max
  | .waiting => c.blocking = true ∧ c.copied < c.max

/-- A READ in progress (42 R103, R107): `copied <= max`, the snapshot is a page, and a non-blocking READ that has
copied nothing has data ahead. -/
def ReadCtxOk (s : State) (c : ReadCtx) : Prop :=
  c.copied ≤ c.max ∧ c.prod < s.par.numPages ∧
  (c.blocking = false → c.copied = 0#64 → s.currentPage ≠ c.prod) ∧
  ReadPhaseOk s c c.phase

/-- The session's invariant: an open session holds an allocated pool and a page index, and a READ in progress belongs
to an open session (10_state R26, R28; 41 R85; 42 R104, R105, R114). -/
def State.SessionOk (s : State) : Prop :=
  s.par.Admissible ∧
  (s.sess = .opened → s.pool = .allocated ∧ s.startPage < s.par.numPages) ∧
  (∀ c, s.rdCtx = some c → s.sess = .opened ∧ ReadCtxOk s c)

/-- The builder's words stand in the program buffer (41 R89). -/
abbrev State.ProgramLoaded (s : State) : Prop :=
  s.mem.readWords s.par.progBase.toNat (programWords s.par).length = programWords s.par

/-- The engine is executing the `w`-th instruction after the SYNC of the generated program (40 R81; `w = 2N` is the
JUMP): it is about to fetch it, or it is moving the bytes of that WRITE. -/
def State.EngineAt (s : State) (w : Nat) : Prop :=
  w ≤ 2 * s.par.numPages ∧ s.epc.toNat = s.par.progBase.toNat + 4 + 8 * w ∧
  (s.engPhase = .atFetch ∨
    ∃ sol eol irq1 cnt count dst done,
      (programInstrs s.par)[w + 1]? = some (.write sol eol irq1 cnt count dst) ∧ done < count.toNat ∧
      s.engPhase = .inWrite dst done count.toNat (writeWord sol eol irq1 cnt count))

/-- A running engine executes the program BUILD_PROGRAM wrote, and the counter names the page being written (40 R81,
R82): at the SYNC, or past it with `GPCNT mod N` the page of the instruction being executed. That the program buffer and
the descriptor table are apart, which 00_scope R8 does not ask, is the model's premise here (DESIGN CHOICE, log entry 35);
no step uses it. -/
def State.ProgramRunOk (s : State) : Prop :=
  s.par.Admissible ∧
  Apart s.par.progBase.toNat s.par.progBufSize s.par.cdtBase.toNat s.par.cdtBytes ∧
  (s.progBuilt = true → s.ProgramLoaded) ∧
  (s.engRun = .running → s.pool = .allocated ∧ s.progBuilt = true ∧
    ((s.engPhase = .atFetch ∧ s.epc = s.par.progBase) ∨
      (s.synced = true ∧ ∃ w, s.EngineAt w ∧ s.gpcnt.toNat % s.par.numPages = w / 2 % s.par.numPages)))

/-! ## Several steps -/

/-- `k` engine steps in a row. -/
def engineSteps : Nat → State → Answer
  | 0, s => .next s
  | k + 1, s =>
    match engineStep s with
    | .next t => engineSteps k t
    | .fault r => .fault r
    | .refused r => .refused r

/-- `k` steps of the READ in progress in a row. -/
def readerSteps : Nat → State → Answer
  | 0, s => .next s
  | k + 1, s =>
    match readerStep s with
    | .next t => readerSteps k t
    | .fault r => .fault r
    | .refused r => .refused r

/-- The byte of the sample stream `k` bytes ahead (20_memory R44). -/
def State.sampleAhead (s : State) (k : Nat) : Byte :=
  match s.draws.samples[k]? with
  | some b => b
  | none => Config.freeSample (s.draws.taken + (k - s.draws.samples.length))

/-- The consumer's answer to the byte `k` bytes ahead (42 R108). -/
def State.sinkAhead (s : State) (k : Nat) : Bool :=
  match s.draws.sinks[k]? with
  | some ok => ok
  | none => Config.freeSink (s.draws.taken + (k - s.draws.sinks.length))

/-! ## Runs under a schedule -/

/-- The state after `n` turns of a schedule, none once a turn has ended in a fault or a refusal. -/
def scheduledRun (sched : Nat → Turn) (s : State) : Nat → Option State
  | 0 => some s
  | n + 1 =>
    match scheduledRun sched s n with
    | none => none
    | some t =>
      match turnStep (sched n) t with
      | .next u => some u
      | .fault _ => none
      | .refused _ => none

/-- Weak fairness to an agent: at every later point there is one at which the agent has no step or takes it. -/
def WeaklyFair (enabled : State → Prop) (agent : Turn) (sched : Nat → Turn) (s : State) : Prop :=
  ∀ n, ∃ m, n ≤ m ∧ ∀ t, scheduledRun sched s m = some t → enabled t → sched m = agent

/-- The engine has a step (40 R71): it runs and is neither stuck nor refused. -/
def State.EngineEnabled (s : State) : Prop := s.engRun = .running ∧ ∃ t, engineStep s = .next t

/-- The host has a step of the READ in progress (42 R105): it is not waiting without `data_ready` (42 R111) and not
stuck. -/
def State.ReaderEnabled (s : State) : Prop :=
  (∃ c, s.rdCtx = some c ∧ (c.phase = .waiting → s.dataReady = true)) ∧ ∃ t, readerStep s = .next t

/-- The acknowledger is weakly fair (60 R127): while the line is up it takes its step eventually. -/
abbrev AckFair (sched : Nat → Turn) (s : State) : Prop := WeaklyFair (fun t => t.irqLine = true) .ack sched s

/-- The engine is weakly fair (40 R73): while it runs and is not stuck or refused it takes its step eventually, so a
SYNC's wait ends. A run that never schedules a stuck engine again is fair. -/
abbrev EngineFair (sched : Nat → Turn) (s : State) : Prop := WeaklyFair State.EngineEnabled .engine sched s

/-- The host is weakly fair (70_reset R153): a READ in progress that has a step takes it eventually. Which commands the
host issues is the schedule's choice (log entry 19). -/
abbrev HostFair (sched : Nat → Turn) (s : State) : Prop := WeaklyFair State.ReaderEnabled .reader sched s

/-! ## The end of a run (70_reset R154) -/

/-- What is observed of a run at its end: session, results, values read, delivered bytes, memory, registers and the counter. -/
structure Observed where
  sess       : Session
  pos        : DWord
  startPage  : Nat
  results    : List Result
  regReads   : List Word
  delivered  : List Byte
  mem        : Memory
  dmaEn      : Bool
  vidEn      : Bool
  irq1En     : Bool
  irq1Stat   : Bool
  dmaPtr     : Word
  dmaCdtPtr  : Word
  dmaCdtSize : Word
  gpcnt      : Half
  deriving DecidableEq, Repr

/-- The observed part of a state. -/
def State.observed (s : State) : Observed where
  sess := s.sess
  pos := s.pos
  startPage := s.startPage
  results := s.results
  regReads := s.regReads
  delivered := s.sink
  mem := s.mem
  dmaEn := s.dmaEn
  vidEn := s.vidEn
  irq1En := s.irq1En
  irq1Stat := s.irq1Stat
  dmaPtr := s.dmaPtr
  dmaCdtPtr := s.dmaCdtPtr
  dmaCdtSize := s.dmaCdtSize
  gpcnt := s.gpcnt

/-- After `n` turns the host's last command has returned and no READ is in progress. -/
def HostDone (sched : Nat → Turn) (s : State) (n : Nat) : Prop :=
  (∃ t, scheduledRun sched s n = some t ∧ t.rdCtx = none) ∧ ∀ m, n ≤ m → ∀ c, sched m ≠ .command c

/-- The run ends after `n` turns, in state `t`: the first point at which the host is done. What is observed of the run is
`t.observed`; of the turns the engine takes after that point it says nothing (log entry 34). -/
def EndsAt (sched : Nat → Turn) (s : State) (n : Nat) (t : State) : Prop :=
  scheduledRun sched s n = some t ∧ HostDone sched s n ∧ ∀ k, k < n → ¬ HostDone sched s k

/-- A READ is in phase `Waiting` (42 R111). -/
def State.Waits (s : State) : Prop := ∃ c, s.rdCtx = some c ∧ c.phase = .waiting

/-- Some turns of the engine, the acknowledger and the READ itself, in some order, bring the READ out of `Waiting`. A
cancellation does not count, since it ends a hang too (70_reset R146), nor does a command of the host (log entry 34). -/
def State.CanLeaveWait (s : State) : Prop :=
  ∃ (sched : Nat → Turn) (n : Nat) (t : State), (∀ m, sched m ≠ .cancel ∧ ∀ c, sched m ≠ .command c) ∧
    scheduledRun sched s n = some t ∧ ¬ t.Waits

/-- The run is a hang: from some point on its READ is in phase `Waiting` and can never leave it (70_reset R146, R154). -/
def Hangs (sched : Nat → Turn) (s : State) : Prop :=
  ∃ n, ∀ m, n ≤ m → ∃ t, scheduledRun sched s m = some t ∧ t.Waits ∧ ¬ t.CanLeaveWait

end Sys2Proof.Machine
end

