-- ==== Sys2Proof/Certificates/Slice0/Obligations.lean ====
section
/-! DEFINITION. The statements about the model, for the provers: each a `def Obligations.<Name> : Prop`, listed in
OBLIGATIONS.json with the rules of spec/ it formalises. A next state written as `with` an update says its own frame:
every field not named there, every byte of memory and every register included, is as before. -/

open Sys2Proof Sys2Proof.Machine

/-! ## Encoding (30_encoding) -/

/-- Words written out from 30_encoding R57, R65 and R66 decode to the instructions they stand for, and words R67 names
are rejected. -/
def Obligations.WordsOfTheSpecDecode : Prop :=
  decode [0x00, 0x00, 0x03, 0x80] = .ok (.sync .reset, []) ∧
  decode [0x00, 0x00, 0x00, 0x80] = .ok (.sync .none, []) ∧
  decode [0x00, 0x08, 0x00, 0x1C, 0x00, 0x00, 0x10, 0x00] =
    .ok (.write true true false .none 2048#12 0x00100000#32, []) ∧
  decode [0x00, 0x08, 0x03, 0x1D, 0x00, 0x08, 0x10, 0x00] =
    .ok (.write true true true .last 2048#12 0x00100800#32, []) ∧
  decode [0xFF, 0x0F, 0x01, 0x10, 0x04, 0x03, 0x02, 0x01] =
    .ok (.write false false false .inc 4095#12 0x01020304#32, []) ∧
  decode [0x00, 0x00, 0x00, 0x70, 0x04, 0x00, 0x01, 0x00] = .ok (.jump 0x00010004#32, []) ∧
  decodeControl 0x80010000#32 = .error (.rejected .syncForm 0x80010000#32) ∧
  decodeControl 0x12000800#32 = .error (.rejected .irq2 0x12000800#32) ∧
  decodeControl 0x10020800#32 = .error (.rejected .counterCode 0x10020800#32) ∧
  decodeControl 0x20000000#32 = .error (.rejected .opcode 0x20000000#32)

/-- Encoding then decoding gives the instruction back, with every operand at every value its field admits, whatever
bytes follow. -/
def Obligations.DecodeOfEncodeIsTheInstruction : Prop :=
  ∀ (i : Instr) (rest : List Byte), i.wellFormed = true → decode (encodeBytes i ++ rest) = .ok (i, rest)

/-- Every instruction the decoder reads is well-formed and its encoding is the bytes it was read from: each admitted
word has one meaning. -/
def Obligations.EncodeOfDecodeIsTheBytes : Prop :=
  ∀ (bytes : List Byte) (i : Instr) (rest : List Byte), decode bytes = .ok (i, rest) →
    i.wellFormed = true ∧ bytes = encodeBytes i ++ rest

/-- 30_encoding R65: the control words the decoder admits are exactly the admitted forms of the opcode map. -/
def Obligations.AdmittedFormsAreTheOpcodeMap : Prop :=
  ∀ w0 : Word, (∃ c, decodeControl w0 = .ok c) ↔
    (w0 = 0x80000000#32 ∨ w0 = 0x80030000#32 ∨
     (w0.extractLsb' 28 4 = 0b0001#4 ∧ w0.getLsbD 25 = false ∧ w0.extractLsb' 18 6 = 0#6 ∧
        w0.extractLsb' 12 4 = 0#4 ∧ w0.extractLsb' 16 2 ≠ 0b10#2 ∧ w0.extractLsb' 0 12 ≠ 0#12) ∨
     w0 = 0x70000000#32)

/-! ## The step and the engine (40_dma_engine) -/

/-- One step is the step of the agent at the agenda's head, the engine's where nothing is scheduled (the model's
choice, log entry 2). -/
def Obligations.StepIsTheScheduledAgentsStep : Prop :=
  ∀ s : State,
    (∀ t rest, s.agenda = t :: rest → step s = turnStep t { s with agenda := rest }) ∧
    (s.agenda = [] → step s = turnStep .engine s)

/-- 40 R71: a running engine about to fetch whose bytes at `epc` decode to `i` executes `i`; the step adds only the
agenda's advance. -/
def Obligations.StepRunsTheDecodedInstruction : Prop :=
  ∀ (s : State) (i : Instr) (rest : List Byte) (more : List Turn),
    (s.agenda = .engine :: more ∨ (s.agenda = [] ∧ more = [])) →
    s.engRun = .running → s.engPhase = .atFetch → decode s.fetchBytes = .ok (i, rest) →
    step s = exec i { s with agenda := more }

/-- 40 R71: when `eng_run = Stopped` the engine's state does not change, whether its turn is scheduled or the agenda is
empty; that the turn then passes with nothing changed is the model's choice (log entries 2, 3). -/
def Obligations.StoppedEngineDoesNotMove : Prop :=
  ∀ (s : State) (more : List Turn), (s.agenda = .engine :: more ∨ (s.agenda = [] ∧ more = [])) →
    s.engRun = .stopped → step s = .next { s with agenda := more }

/-- 40 R72: a control word inside the program buffer that is no admitted form is refused by name. -/
def Obligations.UnadmittedWordIsRefused : Prop :=
  ∀ s : State, s.engRun = .running → s.engPhase = .atFetch → s.epc.toNat % 4 = 0 →
    s.insideProgram s.epc.toNat 4 = true →
    (∀ c, decodeControl (s.mem.readWord s.epc.toNat) ≠ .ok c) →
    turnStep .engine s = .refused (.unmodelledInstruction (s.mem.readWord s.epc.toNat))

/-- 20_memory R45, 40 R71: a fetch outside the program buffer is stuck: of the control word, or of the second word of
a two-word instruction. With `epc` no multiple of 4 there is no fetch (20_memory R40), which the model makes a fault of its
own (log entry 36). That a stuck agent's turn ends the run in a fault is the model's choice (log entry 4). -/
def Obligations.FetchOutsideTheProgramIsStuck : Prop :=
  ∀ s : State, s.engRun = .running → s.engPhase = .atFetch →
    (s.epc.toNat % 4 ≠ 0 → turnStep .engine s = .fault (.misalignedFetch s.epc)) ∧
    (s.epc.toNat % 4 = 0 → s.insideProgram s.epc.toNat 4 = false →
      turnStep .engine s = .fault (.fetchOutsideProgram s.epc)) ∧
    (s.epc.toNat % 4 = 0 → s.insideProgram s.epc.toNat 4 = true → s.insideProgram (s.epc + 4#32).toNat 4 = false →
      (∃ c, decodeControl (s.mem.readWord s.epc.toNat) = .ok c ∧ ∀ cnt, c ≠ .sync cnt) →
      turnStep .engine s = .fault (.fetchOutsideProgram s.epc))

/-- 40 R74: SYNC completes in every state; RESET sets the counter (and the ghost of 70_reset R141), NONE leaves it;
nothing else changes but `epc`. The steps it may first wait change nothing; that they are turns of their own is the
model's choice (log entry 18). -/
def Obligations.SyncCompletes : Prop :=
  ∀ s : State,
    turnStep .syncWait s = .next s ∧
    exec (.sync .none) s = .next { s with epc := s.epc + 4#32 } ∧
    exec (.sync .reset) s = .next { s with gpcnt := 0#16, synced := true, epc := s.epc + 4#32 }

/-- 40 R75, first step: a WRITE whose range is inside one page of an allocated pool begins its transfer, whatever its
flags and counter control; nothing else changes, no byte of memory among it. -/
def Obligations.WriteBeginsItsTransfer : Prop :=
  ∀ (s : State) (sol eol irq1 : Bool) (cnt : WriteCnt) (count : BitVec 12) (dst : Word),
    count ≠ 0#12 → dst.toNat + count.toNat ≤ 4294967296 → s.pool = .allocated →
    (∃ b ∈ s.par.pageBases, b.toNat ≤ dst.toNat ∧ dst.toNat + count.toNat ≤ b.toNat + s.par.pageSize) →
    exec (.write sol eol irq1 cnt count dst) s =
      .next { s with engPhase := .inWrite dst 0 count.toNat (writeWord sol eol irq1 cnt count) }

/-- 40 R75: a WRITE of no bytes is refused, then one that crosses the top of the address space, and one that is not
inside one page of an allocated pool is stuck (a fault: the model's choice, log entry 4). -/
def Obligations.WriteRefusedOrStuck : Prop :=
  ∀ (s : State) (sol eol irq1 : Bool) (cnt : WriteCnt) (count : BitVec 12) (dst : Word),
    (count = 0#12 → exec (.write sol eol irq1 cnt count dst) s =
      .refused (.unmodelledInstruction (writeWord sol eol irq1 cnt 0#12))) ∧
    (count ≠ 0#12 → 4294967296 < dst.toNat + count.toNat →
      exec (.write sol eol irq1 cnt count dst) s = .refused (.writeCrossesTop dst count.toNat)) ∧
    (count ≠ 0#12 → dst.toNat + count.toNat ≤ 4294967296 →
      (s.pool = .unallocated ∨
        ∀ b ∈ s.par.pageBases, dst.toNat < b.toNat ∨ b.toNat + s.par.pageSize < dst.toNat + count.toNat) →
      exec (.write sol eol irq1 cnt count dst) s = .fault (.writeOutsidePage dst count.toNat))

/-- 40 R78: JUMP to a multiple of 4 completes and writes `epc` only. -/
def Obligations.JumpCompletes : Prop :=
  ∀ (s : State) (target : Word), target.toNat % 4 = 0 → exec (.jump target) s = .next { s with epc := target }

/-- 40 R79: a JUMP target that is not a multiple of 4 is refused before `epc` changes. -/
def Obligations.MisalignedJumpIsRefused : Prop :=
  ∀ (s : State) (target : Word), target.toNat % 4 ≠ 0 →
    exec (.jump target) s = .refused (.misalignedJumpTarget target)

/-- 40 R75, a later step that is not the last: the next sample lands at `dst + done`, every other byte is as before,
and counter, status and `epc` do not change. -/
def Obligations.WriteByteLands : Prop :=
  ∀ (s : State) (dst : Word) (done count : Nat) (w0 : Word),
    s.MemOk → s.engRun = .running → s.engPhase = .inWrite dst done count w0 → done + 1 ≠ count →
    s.insidePage (dst.toNat + done) 1 = true →
    ∃ t, turnStep .engine s = .next t ∧
      t = { s with mem := t.mem, draws := t.draws, engPhase := .inWrite dst (done + 1) count w0 } ∧
      t.mem.read (dst.toNat + done) = s.sampleAhead 0 ∧
      (∀ a, a ≠ dst.toNat + done → t.mem.read a = s.mem.read a) ∧
      t.draws = { s.draws with samples := s.draws.samples.drop 1, taken := s.draws.taken + (1 - s.draws.samples.length) }

/-- 40 R75, R76, R77: the last byte of a WRITE lands, then the counter control applies (modulo 2^16), then the interrupt
request, `epc` advances by 8 and the engine fetches next; nothing else changes. -/
def Obligations.WriteLastByteCountsAndRequests : Prop :=
  ∀ (s : State) (dst : Word) (done : Nat) (sol eol irq1 : Bool) (cnt : WriteCnt) (count : BitVec 12),
    s.MemOk → s.engRun = .running →
    s.engPhase = .inWrite dst done (done + 1) (writeWord sol eol irq1 cnt count) →
    s.insidePage (dst.toNat + done) 1 = true →
    ∃ t, turnStep .engine s = .next t ∧
      t = { s with mem := t.mem, draws := t.draws, gpcnt := t.gpcnt, irq1Stat := s.irq1Stat || irq1,
                   epc := s.epc + 8#32, engPhase := .atFetch } ∧
      t.mem.read (dst.toNat + done) = s.sampleAhead 0 ∧
      (∀ a, a ≠ dst.toNat + done → t.mem.read a = s.mem.read a) ∧
      (cnt = .none → t.gpcnt = s.gpcnt) ∧
      (cnt = .inc → t.gpcnt.toNat = (s.gpcnt.toNat + 1) % 65536) ∧
      (cnt = .last → s.par.lastCnt = .wrapInc → t.gpcnt.toNat = (s.gpcnt.toNat + 1) % 65536) ∧
      (cnt = .last → s.par.lastCnt = .resetZero → t.gpcnt = 0#16)

/-- 40 R75 as a whole: from the start of its transfer, `COUNT` engine steps complete a WRITE: its bytes are the next
`COUNT` of the sample stream in ascending order, no other byte changes, and then, and only then, counter, status and
`epc` change. Where the next samples come from is the model's form of the stream (log entry 6). -/
def Obligations.WriteLandsAllItsBytes : Prop :=
  ∀ (s : State) (dst : Word) (sol eol irq1 : Bool) (cnt : WriteCnt) (count : BitVec 12),
    s.MemOk → s.engRun = .running → count ≠ 0#12 →
    s.engPhase = .inWrite dst 0 count.toNat (writeWord sol eol irq1 cnt count) →
    s.insidePage dst.toNat count.toNat = true →
    (∀ k, k < count.toNat → ∃ t, engineSteps k s = .next t ∧
      t.gpcnt = s.gpcnt ∧ t.irq1Stat = s.irq1Stat ∧ t.epc = s.epc) ∧
    ∃ t, engineSteps count.toNat s = .next t ∧
      t = { s with mem := t.mem, draws := t.draws, gpcnt := countedGpcnt s.par.lastCnt cnt s.gpcnt,
                   irq1Stat := s.irq1Stat || irq1, epc := s.epc + 8#32, engPhase := .atFetch } ∧
      (∀ k, k < count.toNat → t.mem.read (dst.toNat + k) = s.sampleAhead k) ∧
      (∀ a, a < dst.toNat ∨ dst.toNat + count.toNat ≤ a → t.mem.read a = s.mem.read a) ∧
      t.draws = { s.draws with samples := s.draws.samples.drop count.toNat,
                               taken := s.draws.taken + (count.toNat - s.draws.samples.length) }

/-- 10_state R34: the engine reaches host memory through the program only: none of its steps changes a register but
`GPCNT` and `IRQ1_STAT`, the session, the build state, the sink or a result. -/
def Obligations.EngineReachesNoRegister : Prop :=
  ∀ s t : State, turnStep .engine s = .next t →
    t = { s with mem := t.mem, draws := t.draws, gpcnt := t.gpcnt, irq1Stat := t.irq1Stat, epc := t.epc,
                 engPhase := t.engPhase, synced := t.synced }

/-- 10_state R24, 60 R135: only the engine writes `GPCNT`. -/
def Obligations.OnlyTheEngineWritesTheCounter : Prop :=
  ∀ (s t : State) (who : Turn), turnStep who s = .next t → who ≠ .engine → t.gpcnt = s.gpcnt

/-- 10_state R21: of the commands only START and STOP change `eng_run`, and beside them the host's write of `DMA_EN`, to
which R30 gives that effect (the model's reading of R21 beside R30, log entry 10); no other turn of any agent does. -/
def Obligations.OnlyStartAndStopChangeTheEngineRun : Prop :=
  ∀ (s t : State) (who : Turn), turnStep who s = .next t → t.engRun ≠ s.engRun →
    who = .command .start ∨ who = .command .stop ∨ ∃ v, who = .command (.regWrite s.par.regOff.devCntrl 32 v)

/-! ## Invariants over every step -/

/-- Every step keeps memory's canonical form (the form is the model's choice, log entry 7). -/
def Obligations.EveryStepKeepsMemoryCanonical : Prop :=
  ∀ s t : State, s.MemOk → step s = .next t → t.MemOk

/-- 10_state R22, 20_memory R40: while it runs, the engine's program counter stays a multiple of 4. A start by the host's
own write of `DMA_EN`, which the model admits (log entry 10), keeps this where `DMA_PTR` is a multiple of 4. -/
def Obligations.EveryStepKeepsEpcAligned : Prop :=
  ∀ s t : State, s.EpcAligned → step s = .next t → (RawStart s t → s.dmaPtr.toNat % 4 = 0) → t.EpcAligned

/-- 42 R103, R107: every step keeps the session's invariant: `copied <= max`, chunks inside the current page and the
request, never in the producer's page of the last sample. -/
def Obligations.EveryStepKeepsTheSession : Prop :=
  ∀ s t : State, s.SessionOk → step s = .next t → t.SessionOk

/-- 40 R81, R82: every step keeps a running engine on the program BUILD_PROGRAM wrote, with `GPCNT mod N` the page of
the instruction being executed. A start by the host's own write of `DMA_EN`, which the model admits (log entry 10), keeps
this where START's preconditions hold and `DMA_PTR` is the program's address. The invariant has program buffer and table
apart (the model's premise, log entry 35). -/
def Obligations.EveryStepKeepsTheProgramRun : Prop :=
  ∀ s t : State, s.MemOk → s.ProgramRunOk → step s = .next t →
    (RawStart s t → s.dmaPtr = s.par.progBase ∧ s.pool = .allocated ∧ s.progBuilt = true) → t.ProgramRunOk

/-- 40 R72, R81: an engine on the program BUILD_PROGRAM wrote is never stuck and never refused. In a stopped state, where
the engine has no step, its turn answers by the model's choice (log entry 3); the invariant has program buffer and table
apart (log entry 35). -/
def Obligations.TheProgramRunNeverStops : Prop :=
  ∀ s : State, s.ProgramRunOk → ∃ t, turnStep .engine s = .next t

/-- 40 R82: past the SYNC, the page being written is page `GPCNT mod N`. The invariant has program buffer and table apart
(the model's premise, log entry 35). -/
def Obligations.ThePageBeingWrittenIsTheCountersPage : Prop :=
  ∀ (s : State) (dst : Word) (done count : Nat) (w0 : Word), s.ProgramRunOk → s.engRun = .running →
    s.engPhase = .inWrite dst done count w0 →
    ∃ b, s.par.pageBases[s.gpcnt.toNat % s.par.numPages]? = some b ∧
      b.toNat ≤ dst.toNat ∧ dst.toNat + count ≤ b.toNat + s.par.pageSize

/-- 20_memory R54: while the engine runs, no step of any agent changes a byte of the program buffer or of the
descriptor table. -/
def Obligations.ProgramAndTableAreImmutableWhileRunning : Prop :=
  ∀ s t : State, s.par.Admissible → s.MemOk → s.engRun = .running → step s = .next t →
    ∀ a, (s.par.progBase.toNat ≤ a ∧ a < s.par.progBase.toNat + s.par.progBufSize ∨
          s.par.cdtBase.toNat ≤ a ∧ a < s.par.cdtBase.toNat + s.par.cdtBytes) →
      t.mem.read a = s.mem.read a

/-- The parameters of 00_scope R8 stay as they are (the model keeps them in State, log entry 1). -/
def Obligations.NoStepChangesTheParameters : Prop :=
  ∀ s t : State, step s = .next t → t.par = s.par

/-- The invariants hold in the model's reset state and, memory and admissible parameters given, in every state the
spec admits at reset. The program-run invariant has program buffer and table apart (the model's premise, log entry 35). -/
def Obligations.InvariantsHoldAtReset : Prop :=
  State.reset.MemOk ∧ State.reset.EpcAligned ∧ State.reset.SessionOk ∧ State.reset.ProgramRunOk ∧
  ∀ s : State, s.IsReset → s.par.Admissible → s.EpcAligned ∧ s.SessionOk ∧
    (Apart s.par.progBase.toNat s.par.progBufSize s.par.cdtBase.toNat s.par.cdtBytes → s.ProgramRunOk)

/-- 70_reset R138: the model's reset state is one the spec admits, and in every one the interrupt line is deasserted
and the engine has no step (its turn changes nothing: the model's choice, log entry 3). -/
def Obligations.ResetIsAsTheSpecSays : Prop :=
  State.reset.IsReset ∧ ∀ s : State, s.IsReset → s.irqLine = false ∧ turnStep .engine s = .next s

/-! ## Pool, table and program (41_program_builder) -/

/-- 41 R84, R97: what ALLOCATE answers, by its arguments, the state and the environment's choice. That the refusal while
Running comes before DoubleAllocate (log entry 13), the refusal of another geometry than the parameters' (log entry 12)
and the pages' holding what the environment supplies (log entry 17) are the model's readings. -/
def Obligations.AllocateOutcomes : Prop :=
  ∀ (s : State) (capacity pageSize : Nat),
    let answer := turnStep (.command (.allocate capacity pageSize)) s;
    (s.engRun = .running → answer = .refused .programWriteWhileRunning) ∧
    (s.engRun = .stopped → s.pool = .allocated → answer = .refused .doubleAllocate) ∧
    (s.engRun = .stopped → s.pool = .unallocated →
      (¬ (2 ≤ pageSize ∧ ∃ e ≤ 12, pageSize = 2 ^ e) ∨ capacity % pageSize ≠ 0 →
        answer = .next { s with results := s.results ++ [.configurationError] }) ∧
      ((2 ≤ pageSize ∧ ∃ e ≤ 12, pageSize = 2 ^ e) → capacity % pageSize = 0 →
        (pageSize ≠ s.par.pageSize ∨ capacity / pageSize ≠ s.par.numPages) →
        answer = .refused (.allocateOtherGeometry capacity pageSize)) ∧
      ((2 ≤ pageSize ∧ ∃ e ≤ 12, pageSize = 2 ^ e) → capacity % pageSize = 0 → pageSize = s.par.pageSize →
        capacity / pageSize = s.par.numPages →
        ∃ t, answer = .next t ∧
          (s.nextAlloc = true → t = { s with pool := .allocated, mem := t.mem, draws := t.draws,
                                             results := s.results ++ [.ok] } ∧
            (s.draws.fills = [] → t.mem = s.mem) ∧
            (∀ cells rest, s.draws.fills = cells :: rest →
              t.mem = fillCells s.par s.mem cells ∧ t.draws.fills = rest)) ∧
          (s.nextAlloc = false → t = { s with draws := t.draws, results := s.results ++ [.allocationError] })))

/-- A byte of the pages ALLOCATE obtains reads as the last one the environment supplies for it, and as before where it
supplies none; ALLOCATE changes no byte outside the pages (41 R84, 10_state R35; the model's form, log entry 17). -/
def Obligations.AllocateLeavesOtherMemory : Prop :=
  ∀ (s t : State) (capacity pageSize : Nat), s.MemOk →
    turnStep (.command (.allocate capacity pageSize)) s = .next t →
    (s.draws.fills = [] → t.mem = s.mem) ∧
    (∀ cells rest, s.draws.fills = cells :: rest → t.pool = .allocated →
      ∀ b ∈ s.par.pageBases, ∀ a, b.toNat ≤ a → a < b.toNat + s.par.pageSize → a < 4294967296 →
        t.mem.read a = match cells.reverse.find? (fun c => c.1 == a) with
          | some c => c.2
          | none => s.mem.read a) ∧
    ∀ a, (∀ b ∈ s.par.pageBases, a < b.toNat ∨ b.toNat + s.par.pageSize ≤ a) → t.mem.read a = s.mem.read a

/-- 41 R85: FREE releases pages, table and program, and is refused while the engine runs or a session is open. Which of
the two names of the spec (R85, R97) the refusal while Running carries is the model's choice (log entry 13). -/
def Obligations.FreeOutcomes : Prop :=
  ∀ s : State,
    (s.engRun = .running ∨ s.sess = .opened → turnStep (.command .free) s = .refused .freeWhileInUse) ∧
    (s.engRun = .stopped → s.sess = .idle → turnStep (.command .free) s =
      .next { s with pool := .unallocated, cdtBuilt := false, progBuilt := false, results := s.results ++ [.ok] })

/-- 41 R97: a build or an ALLOCATE while Running is refused. That this check comes before ALLOCATE's other one is the
model's choice (log entry 13). -/
def Obligations.BuildsWhileRunningAreRefused : Prop :=
  ∀ (s : State) (c : Command), s.engRun = .running →
    (c = .buildCdt ∨ c = .buildProgram ∨ ∃ capacity pageSize, c = .allocate capacity pageSize) →
    turnStep (.command c) s = .refused .programWriteWhileRunning

/-- 41 R86, R87: BUILD_CDT writes the `2N` entries, entry `j` being `PAGE_BASE(j div 2) + (j mod 2) * CS`, and no other
byte; a number of pages that is no power of two up to 65536 is a configuration error with nothing written, and a build
without a pool is refused (its name is the model's, log entry 14). -/
def Obligations.BuildCdtWritesTheAddressLaw : Prop :=
  ∀ s : State, s.engRun = .stopped →
    (s.pool = .unallocated → turnStep (.command .buildCdt) s = .refused .buildWithoutPool) ∧
    (s.pool = .allocated → (¬ ∃ e ≤ 16, s.par.numPages = 2 ^ e) →
      turnStep (.command .buildCdt) s = .next { s with results := s.results ++ [.configurationError] }) ∧
    (s.pool = .allocated → s.MemOk → s.par.Admissible →
      ∃ t, turnStep (.command .buildCdt) s = .next t ∧
        t = { s with mem := t.mem, cdtBuilt := true, results := s.results ++ [.ok] } ∧
        (∀ j b, j < 2 * s.par.numPages → s.par.pageBases[j / 2]? = some b →
          (t.mem.readWord (s.par.cdtBase.toNat + 4 * j)).toNat = b.toNat + j % 2 * (s.par.pageSize / 2)) ∧
        (∀ a, a < s.par.cdtBase.toNat ∨ s.par.cdtBase.toNat + 8 * s.par.numPages ≤ a →
          t.mem.read a = s.mem.read a))

/-- 41 R88, R89, R94: BUILD_PROGRAM writes the program, word by word as the layout gives it, and no other byte; a number
of pages that is no power of two up to 65536 or a buffer too small is a configuration error with nothing written, and a
build without a pool is refused (its name is the model's, log entry 14). -/
def Obligations.BuildProgramWritesTheLayout : Prop :=
  ∀ s : State, s.engRun = .stopped →
    (s.pool = .unallocated → turnStep (.command .buildProgram) s = .refused .buildWithoutPool) ∧
    (s.pool = .allocated →
      ((¬ ∃ e ≤ 16, s.par.numPages = 2 ^ e) ∨ s.par.progBufSize < 16 * s.par.numPages + 12) →
      turnStep (.command .buildProgram) s = .next { s with results := s.results ++ [.configurationError] }) ∧
    (s.pool = .allocated → s.MemOk → s.par.Admissible → (s.cdtBuilt = true → s.cdtMatches = true) →
      ∃ t, turnStep (.command .buildProgram) s = .next t ∧
        t = { s with mem := t.mem, progBuilt := true, results := s.results ++ [.ok] } ∧
        (let base := s.par.progBase.toNat
         let n := s.par.numPages;
         let cs := s.par.pageSize / 2;
         t.mem.readWord base = 0x80030000#32 ∧
         (∀ i b, s.par.pageBases[i]? = some b →
           (t.mem.readWord (base + 4 + 16 * i)).toNat = 0x1C000000 + cs ∧
           t.mem.readWord (base + 8 + 16 * i) = b ∧
           (t.mem.readWord (base + 12 + 16 * i)).toNat = 0x1C000000 + cs
             + (if (i + 1) % s.par.irqPeriod = 0 then 2 ^ 24 else 0) + (if i + 1 = n then 3 else 1) * 2 ^ 16 ∧
           (t.mem.readWord (base + 16 + 16 * i)).toNat = b.toNat + cs) ∧
         t.mem.readWord (base + 4 + 16 * n) = 0x70000000#32 ∧
         t.mem.readWord (base + 8 + 16 * n) = s.par.progBase + 4#32) ∧
        (∀ a, a < s.par.progBase.toNat ∨ s.par.progBase.toNat + 16 * s.par.numPages + 12 ≤ a →
          t.mem.read a = s.mem.read a))

/-- 41 R91, R92: the high-half WRITE of page `i` carries the interrupt request exactly when `(i + 1) mod K = 0` and
the last tag exactly on the last page; the low half carries neither. -/
def Obligations.BuilderPlacesRequestsAndTags : Prop :=
  ∀ (p : Params) (i : Nat) (b : Word), p.pageBases[i]? = some b →
    (programInstrs p)[1 + 2 * i]? = some (.write true true false .none (BitVec.ofNat 12 (p.pageSize / 2)) b) ∧
    (programInstrs p)[2 + 2 * i]? =
      some (.write true true (decide ((i + 1) % p.irqPeriod = 0)) (if i + 1 = p.numPages then .last else .inc)
        (BitVec.ofNat 12 (p.pageSize / 2)) (b + BitVec.ofNat 32 (p.pageSize / 2)))

/-- 41 R96: after BUILD_CDT from the same pool the two tables agree, so BUILD_PROGRAM's check passes; a table that was
built and does not agree is a configuration error with nothing written. -/
def Obligations.TablesBuiltFromOnePoolAgree : Prop :=
  (∀ s t : State, s.MemOk → s.par.Admissible → s.engRun = .stopped → s.pool = .allocated →
    turnStep (.command .buildCdt) s = .next t → t.cdtMatches = true) ∧
  (∀ s : State, (s.cdtMatches = true ↔ ∀ j, j < 2 * s.par.numPages →
    ((programInstrs s.par).filterMap writeDst)[j]? = some (s.mem.readWord (s.par.cdtBase.toNat + 4 * j)))) ∧
  (∀ s : State, s.par.Admissible → s.engRun = .stopped → s.pool = .allocated → s.cdtBuilt = true →
    s.cdtMatches = false → turnStep (.command .buildProgram) s =
      .next { s with results := s.results ++ [.configurationError] })

/-- 41 R95: BUILD_PROGRAM is a function of `N`, `P`, `K`, `PROG_BASE` and `PAGE_BASE` only: two builds that agree on
these write byte-identical programs, whatever counter, registers, samples, pages and the other parameters are; BUILD_CDT
likewise, of `N`, `P`, `CDT_BASE` and `PAGE_BASE`. -/
def Obligations.BuildsAreDeterministic : Prop :=
  ∀ s1 s2 t1 t2 : State, s1.MemOk → s2.MemOk → s1.par.Admissible → s2.par.Admissible →
    s2.par.pageSize = s1.par.pageSize → s2.par.pageBases = s1.par.pageBases →
    t1.results = s1.results ++ [.ok] → t2.results = s2.results ++ [.ok] →
    (s2.par.irqPeriod = s1.par.irqPeriod → s2.par.progBase = s1.par.progBase →
      turnStep (.command .buildProgram) s1 = .next t1 → turnStep (.command .buildProgram) s2 = .next t2 →
      ∀ a, s1.par.progBase.toNat ≤ a → a < s1.par.progBase.toNat + s1.par.programBytes →
        t1.mem.read a = t2.mem.read a) ∧
    (s2.par.cdtBase = s1.par.cdtBase →
      turnStep (.command .buildCdt) s1 = .next t1 → turnStep (.command .buildCdt) s2 = .next t2 →
      ∀ a, s1.par.cdtBase.toNat ≤ a → a < s1.par.cdtBase.toNat + s1.par.cdtBytes →
        t1.mem.read a = t2.mem.read a)

/-- 41 R98: START hands a built program to the engine; what is not built is a configuration error that starts
nothing, and START while Running is refused. -/
def Obligations.StartOutcomes : Prop :=
  ∀ s : State,
    (s.engRun = .running → turnStep (.command .start) s = .refused .startWhileRunning) ∧
    (s.engRun = .stopped → (s.pool = .unallocated ∨ s.cdtBuilt = false ∨ s.progBuilt = false) →
      turnStep (.command .start) s = .next { s with results := s.results ++ [.configurationError] }) ∧
    (s.engRun = .stopped → s.pool = .allocated → s.cdtBuilt = true → s.progBuilt = true →
      turnStep (.command .start) s = .next
        { s with irq1Stat := false, dmaPtr := s.par.progBase, dmaCdtPtr := s.par.cdtBase,
                 dmaCdtSize := BitVec.ofNat 32 (8 * s.par.numPages), vidEn := true, epc := s.par.progBase,
                 engPhase := .atFetch, engRun := .running, synced := false, results := s.results ++ [.ok] })

/-- 41 R99: STOP halts the engine, abandons a WRITE in progress and keeps everything else; when stopped it changes
nothing. -/
def Obligations.StopOutcomes : Prop :=
  ∀ s : State,
    (s.engRun = .running → turnStep (.command .stop) s =
      .next { s with engRun := .stopped, engPhase := .atFetch, results := s.results ++ [.ok] }) ∧
    (s.engRun = .stopped → turnStep (.command .stop) s = .next { s with results := s.results ++ [.ok] })

/-- 60 R122: a setup command that returns an error leaves the block as it was before it. -/
def Obligations.SetupErrorsLeaveTheBlock : Prop :=
  ∀ (s t : State) (c : Command) (r : Result), turnStep (.command c) s = .next t →
    t.results = s.results ++ [r] → (r = .configurationError ∨ r = .allocationError) →
    t = { s with results := t.results, draws := t.draws }

/-! ## The ring reader (42_ring_reader) -/

/-- 42 R100: the page index is continuous across the counter's wrap. -/
def Obligations.PageOfIsContinuousAcrossTheWrap : Prop :=
  ∀ (n : Nat) (c : Half), pageOf n c = c.toNat % n ∧
    ((∃ e ≤ 16, n = 2 ^ e) → pageOf n (c + 1#16) = (pageOf n c + 1) % n)

/-- 42 R103: a page's worth of bytes moves the current page on by one, across the wrap of `pos` too. -/
def Obligations.CurrentPageIsContinuousAcrossTheWrap : Prop :=
  ∀ (p : Params) (startPage : Nat) (pos : DWord), p.Admissible →
    currentPageOf p startPage (pos + BitVec.ofNat 64 p.pageSize) = (currentPageOf p startPage pos + 1) % p.numPages

/-- 42 R104: what OPEN answers. -/
def Obligations.OpenOutcomes : Prop :=
  ∀ s : State,
    (s.pool = .unallocated → turnStep (.command .openSession) s = .refused .openWithoutPool) ∧
    (s.pool = .allocated → s.sess = .opened →
      turnStep (.command .openSession) s = .next { s with results := s.results ++ [.resourceExhausted] }) ∧
    (s.pool = .allocated → s.sess = .idle → turnStep (.command .openSession) s = .next
      { s with startPage := (s.gpcnt.toNat % s.par.numPages + s.par.numPages - 1) % s.par.numPages, pos := 0#64,
               dataReady := false, irq1En := true, sess := .opened, results := s.results ++ [.ok] })

/-- 42 R114: CLOSE ends the session and is refused without one or during a READ; `start_page` is then any page
(that it stays a page index is the model's reading, log entry 16). -/
def Obligations.CloseOutcomes : Prop :=
  ∀ s : State,
    (s.sess = .idle ∨ s.rdCtx ≠ none → turnStep (.command .close) s = .refused .closeWithoutSession) ∧
    (s.sess = .opened → s.rdCtx = none → ∃ t, turnStep (.command .close) s = .next t ∧
      t = { s with irq1En := false, sess := .idle, startPage := t.startPage, draws := t.draws,
                   results := s.results ++ [.ok] } ∧
      (1 ≤ s.par.numPages → t.startPage < s.par.numPages))

/-- 42 R105, R106: READ's entry step. -/
def Obligations.ReadEntryOutcomes : Prop :=
  ∀ (s : State) (max : DWord) (blocking : Bool),
    let prod := (s.gpcnt.toNat % s.par.numPages + s.par.numPages - 1) % s.par.numPages;
    let cur := (s.startPage + s.pos.toNat / s.par.pageSize) % s.par.numPages;
    (s.sess = .idle ∨ s.rdCtx ≠ none →
      turnStep (.command (.read max blocking)) s = .refused .readWithoutSession) ∧
    (s.sess = .opened → s.rdCtx = none →
      (cur = prod → blocking = false → turnStep (.command (.read max blocking)) s =
        .next { s with results := s.results ++ [.wouldBlock] }) ∧
      (cur ≠ prod ∨ blocking = true → turnStep (.command (.read max blocking)) s =
        .next { s with rdCtx := some ⟨max, blocking, 0#64, prod, .scan⟩ }))

/-- 42 R107: the scan step starts a chunk, returns what was copied, or goes to resample. -/
def Obligations.ScanOutcomes : Prop :=
  ∀ (s : State) (c : ReadCtx), s.SessionOk → s.rdCtx = some c → c.phase = .scan →
    (c.copied < c.max → s.currentPage ≠ c.prod →
      ∃ len, 1 ≤ len ∧
        len = min (s.par.pageSize - s.pos.toNat % s.par.pageSize) (c.max.toNat - c.copied.toNat) ∧
        turnStep .reader s = .next { s with rdCtx := some { c with phase := .copy len 0 } }) ∧
    (c.copied = c.max → turnStep .reader s =
      .next { s with rdCtx := none, results := s.results ++ [.okCount c.copied] }) ∧
    (c.copied < c.max → s.currentPage = c.prod → c.blocking = false →
      1 ≤ c.copied.toNat ∧
      turnStep .reader s = .next { s with rdCtx := none, results := s.results ++ [.okCount c.copied] }) ∧
    (c.copied < c.max → s.currentPage = c.prod → c.blocking = true →
      turnStep .reader s = .next { s with rdCtx := some { c with phase := .resample } })

/-- 42 R108, R110: the copy step delivers one byte, or the consumer rejects it and the READ ends with the committed
count, the failing chunk neither zeroed nor committed. The sink then holds the chunks committed before and any value at
each of the failing chunk's `len` places; that it is one stream is the model's form (log entry 15). -/
def Obligations.CopyOutcomes : Prop :=
  ∀ (s : State) (c : ReadCtx) (len i : Nat) (b : Word),
    s.rdCtx = some c → c.phase = .copy len i → s.pool = .allocated →
    s.par.pageBases[s.currentPage]? = some b → b.toNat + s.par.pageSize ≤ 4294967296 →
    s.pos.toNat % s.par.pageSize + i < s.par.pageSize →
    ∃ t, turnStep .reader s = .next t ∧
      (s.sinkAhead 0 = true → t = { s with
        sink := s.sink ++ [s.mem.read (b.toNat + s.pos.toNat % s.par.pageSize + i)], draws := t.draws,
        rdCtx := some { c with phase := if i + 1 < len then .copy len (i + 1) else .zero len 0 } }) ∧
      (s.sinkAhead 0 = false → t = { s with
        sink := t.sink, draws := t.draws, rdCtx := none, results := s.results ++ [.fault c.copied] } ∧
        t.sink.length = s.sink.length - i + len ∧
        t.sink.take (s.sink.length - i) = s.sink.take (s.sink.length - i))

/-- 42 R109: the zero step writes one 0x00 over the copied region and, after the last, commits the chunk. -/
def Obligations.ZeroOutcomes : Prop :=
  ∀ (s : State) (c : ReadCtx) (len i : Nat) (b : Word), s.MemOk →
    s.rdCtx = some c → c.phase = .zero len i → s.pool = .allocated →
    s.par.pageBases[s.currentPage]? = some b → b.toNat + s.par.pageSize ≤ 4294967296 →
    s.pos.toNat % s.par.pageSize + i < s.par.pageSize →
    ∃ t, turnStep .reader s = .next t ∧
      t.mem.read (b.toNat + s.pos.toNat % s.par.pageSize + i) = 0#8 ∧
      (∀ a, a ≠ b.toNat + s.pos.toNat % s.par.pageSize + i → t.mem.read a = s.mem.read a) ∧
      (i + 1 < len → t = { s with mem := t.mem, rdCtx := some { c with phase := .zero len (i + 1) } }) ∧
      (len ≤ i + 1 → t = { s with
        mem := t.mem, pos := s.pos + BitVec.ofNat 64 len,
        rdCtx := some { c with copied := c.copied + BitVec.ofNat 64 len, phase := .scan } })

/-- 42 R108, R109, R115: a whole chunk: when the consumer accepts its bytes, `2 len` steps deliver them in ascending
address order, zero exactly them and commit them. -/
def Obligations.ReadDeliversAndPoisonsTheChunk : Prop :=
  ∀ (s : State) (c : ReadCtx) (len : Nat) (b : Word), s.SessionOk → s.MemOk →
    s.rdCtx = some c → c.phase = .copy len 0 → s.par.pageBases[s.currentPage]? = some b →
    (∀ k, k < len → s.sinkAhead k = true) →
    ∃ t, readerSteps (2 * len) s = .next t ∧
      t = { s with mem := t.mem, draws := t.draws, sink := t.sink, pos := s.pos + BitVec.ofNat 64 len,
                   rdCtx := some { c with copied := c.copied + BitVec.ofNat 64 len, phase := .scan } } ∧
      t.sink = s.sink ++ (List.range len).map (fun k => s.mem.read (b.toNat + s.pageOffset + k)) ∧
      (∀ k, k < len → t.mem.read (b.toNat + s.pageOffset + k) = 0#8) ∧
      (∀ a, a < b.toNat + s.pageOffset ∨ b.toNat + s.pageOffset + len ≤ a → t.mem.read a = s.mem.read a)

/-- 42 R111: the resample step clears `data_ready` and samples the counter; the waiting phase moves only when
`data_ready` is set (a turn without a step changes nothing: the model's choice, log entry 3). -/
def Obligations.BlockingWaitOutcomes : Prop :=
  ∀ (s : State) (c : ReadCtx), s.rdCtx = some c →
    let prod := (s.gpcnt.toNat % s.par.numPages + s.par.numPages - 1) % s.par.numPages;
    (c.phase = .resample → s.currentPage ≠ prod →
      turnStep .reader s = .next { s with dataReady := false, rdCtx := some { c with prod := prod, phase := .scan } }) ∧
    (c.phase = .resample → s.currentPage = prod →
      turnStep .reader s = .next { s with dataReady := false, rdCtx := some { c with prod := prod, phase := .waiting } }) ∧
    (c.phase = .waiting → s.dataReady = true →
      turnStep .reader s = .next { s with rdCtx := some { c with phase := .resample } }) ∧
    (c.phase = .waiting → s.dataReady = false → turnStep .reader s = .next s)

/-- 42 R112: Cancel ends a waiting READ with `Interrupted` and has no step in any other phase (a turn without a step
changes nothing: the model's choice, log entry 3). -/
def Obligations.CancelOutcomes : Prop :=
  ∀ s : State,
    (∀ c, s.rdCtx = some c → c.phase = .waiting →
      turnStep .cancel s = .next { s with rdCtx := none, results := s.results ++ [.interrupted] }) ∧
    ((∀ c, s.rdCtx = some c → c.phase ≠ .waiting) → turnStep .cancel s = .next s)

/-- A READ of an open session is never stuck outside a page and never refused once entered. With no READ in progress, and
while it waits without `data_ready` (42 R111: no step), the reader's turn answers by the model's choice (log entry 3). -/
def Obligations.TheReaderIsNeverStuck : Prop :=
  ∀ s : State, s.SessionOk → ∃ t, turnStep .reader s = .next t

/-- 42 R113: no step or end of a READ changes `sess`, `start_page`, `GPCNT` or any register. -/
def Obligations.ReadLeavesSessionAndRegisters : Prop :=
  ∀ (s t : State) (who : Turn), turnStep who s = .next t →
    (who = .reader ∨ who = .cancel ∨ ∃ max blocking, who = .command (.read max blocking)) →
    t = { s with mem := t.mem, pos := t.pos, dataReady := t.dataReady, rdCtx := t.rdCtx, sink := t.sink,
                 results := t.results, draws := t.draws }

/-! ## Interrupts and registers (60_exceptions, 10_state) -/

/-- 60 R126: the acknowledger's step clears the request and wakes the reader; with the line down it has none (a
turn without a step changes nothing: the model's choice, log entry 3). -/
def Obligations.AcknowledgeOutcomes : Prop :=
  ∀ s : State,
    (s.vidEn = true → s.irq1En = true → s.irq1Stat = true →
      turnStep .ack s = .next { s with irq1Stat := false, dataReady := true }) ∧
    ((s.vidEn = false ∨ s.irq1En = false ∨ s.irq1Stat = false) → turnStep .ack s = .next s)

/-- 60 R127: in a run that goes on under a schedule fair to the acknowledger, the line is deasserted again and
again. -/
def Obligations.FairAcknowledgerKeepsTheLineDown : Prop :=
  ∀ (sched : Nat → Turn) (s : State), AckFair sched s → (∀ n, scheduledRun sched s n ≠ none) →
    ∀ n, ∃ m t, n ≤ m ∧ scheduledRun sched s m = some t ∧ t.irqLine = false

/-- 10_state R30: what a 32-bit read of each register returns: the whole registers their value, `GPCNT` zero-extended,
and the others their one field at its bit. -/
def Obligations.RegReadReturnsTheRegister : Prop :=
  ∀ (s : State) (r : Reg), s.par.Admissible →
    ∃ t v, turnStep (.command (.regRead (s.par.regOff.off r) 32)) s = .next t ∧
      t = { s with regReads := s.regReads ++ [v], draws := t.draws } ∧
      (r = .devCntrl → v.getLsbD s.par.fieldBit.dmaEn.val = decide (s.engRun = .running)) ∧
      (r = .pciIntmsk → v.getLsbD s.par.fieldBit.vidEn.val = s.vidEn) ∧
      (r = .vidIntmsk → v.getLsbD s.par.fieldBit.irq1En.val = s.irq1En) ∧
      (r = .vidIntstat → v.getLsbD s.par.fieldBit.irq1Stat.val = s.irq1Stat) ∧
      (r = .dmaPtr → v = s.dmaPtr) ∧ (r = .dmaCdtPtr → v = s.dmaCdtPtr) ∧ (r = .dmaCdtSize → v = s.dmaCdtSize) ∧
      (r = .gpcnt → v.toNat = s.gpcnt.toNat)

/-- 10_state R30, 20_memory R43: what a 32-bit write of each register changes. A write that sets `DMA_EN` of a
stopped engine starts it at `DMA_PTR` and one that clears it of a running engine stops it (R30; the model's reading beside
R21, log entry 10). -/
def Obligations.RegWriteChangesTheField : Prop :=
  ∀ (s : State) (r : Reg) (v : Word), s.par.Admissible →
    let answer := turnStep (.command (.regWrite (s.par.regOff.off r) 32 v)) s;
    (r = .devCntrl → v.getLsbD s.par.fieldBit.dmaEn.val = s.dmaEn → answer = .next s) ∧
    (r = .devCntrl → v.getLsbD s.par.fieldBit.dmaEn.val = true → s.engRun = .stopped →
      answer = .next { s with epc := s.dmaPtr, engPhase := .atFetch, engRun := .running }) ∧
    (r = .devCntrl → v.getLsbD s.par.fieldBit.dmaEn.val = false → s.engRun = .running →
      answer = .next { s with engPhase := .atFetch, engRun := .stopped }) ∧
    (r = .pciIntmsk → answer = .next { s with vidEn := v.getLsbD s.par.fieldBit.vidEn.val }) ∧
    (r = .vidIntmsk → answer = .next { s with irq1En := v.getLsbD s.par.fieldBit.irq1En.val }) ∧
    (r = .vidIntstat → v.getLsbD s.par.fieldBit.irq1Stat.val = true → answer = .next { s with irq1Stat := false }) ∧
    (r = .vidIntstat → v.getLsbD s.par.fieldBit.irq1Stat.val = false → answer = .next s) ∧
    (r = .dmaPtr → answer = .next { s with dmaPtr := v }) ∧
    (r = .dmaCdtPtr → answer = .next { s with dmaCdtPtr := v }) ∧
    (r = .dmaCdtSize → answer = .next { s with dmaCdtSize := v }) ∧
    (r = .gpcnt → answer = .next s)

/-- 20_memory R39: a narrower, wider or misaligned register access is refused. -/
def Obligations.MisalignedRegisterAccessIsRefused : Prop :=
  ∀ (s : State) (offset width : Nat) (v : Word), width ≠ 32 ∨ offset % 4 ≠ 0 →
    turnStep (.command (.regRead offset width)) s = .refused .misalignedRegisterAccess ∧
    turnStep (.command (.regWrite offset width v)) s = .refused .misalignedRegisterAccess
end

