-- ==== Sys2Proof/Laws/Decode.lean ====
section
/-! SUPPORT. The fields of a WRITE's control word: what the encoder puts in, the decoder's field functions take out
(30_encoding R57). -/

namespace Sys2Proof

theorem fieldCount_writeWord (sol eol irq1 : Bool) (cnt : WriteCnt) (count : BitVec 12) :
    fieldCount (writeWord sol eol irq1 cnt count) = count := by
  apply BitVec.eq_of_getLsbD_eq
  intro i hi
  simp only [fieldCount, writeWord, BitVec.getLsbD_extractLsb', BitVec.getLsbD_append]
  simp [hi]

/-- A bit above the byte count is a bit of the constant part. -/
theorem writeWord_getLsbD_high (sol eol irq1 : Bool) (cnt : WriteCnt) (count : BitVec 12) {k : Nat} (hk : 12 ≤ k) :
    (writeWord sol eol irq1 cnt count).getLsbD k = (writeWord sol eol irq1 cnt 0#12).getLsbD k := by
  have h : ¬ k < 12 := by omega
  unfold writeWord
  rw [BitVec.getLsbD_append (y := count), BitVec.getLsbD_append (y := 0#12)]
  simp [h]

theorem fieldSol_writeWord (sol eol irq1 : Bool) (cnt : WriteCnt) (count : BitVec 12) :
    fieldSol (writeWord sol eol irq1 cnt count) = sol := by
  rw [fieldSol, writeWord_getLsbD_high _ _ _ _ _ (by omega)]
  cases sol <;> cases eol <;> cases irq1 <;> cases cnt <;> decide

theorem fieldEol_writeWord (sol eol irq1 : Bool) (cnt : WriteCnt) (count : BitVec 12) :
    fieldEol (writeWord sol eol irq1 cnt count) = eol := by
  rw [fieldEol, writeWord_getLsbD_high _ _ _ _ _ (by omega)]
  cases sol <;> cases eol <;> cases irq1 <;> cases cnt <;> decide

theorem fieldIrq2_writeWord (sol eol irq1 : Bool) (cnt : WriteCnt) (count : BitVec 12) :
    fieldIrq2 (writeWord sol eol irq1 cnt count) = false := by
  rw [fieldIrq2, writeWord_getLsbD_high _ _ _ _ _ (by omega)]
  cases sol <;> cases eol <;> cases irq1 <;> cases cnt <;> decide

theorem fieldIrq1_writeWord (sol eol irq1 : Bool) (cnt : WriteCnt) (count : BitVec 12) :
    fieldIrq1 (writeWord sol eol irq1 cnt count) = irq1 := by
  rw [fieldIrq1, writeWord_getLsbD_high _ _ _ _ _ (by omega)]
  cases sol <;> cases eol <;> cases irq1 <;> cases cnt <;> decide

/-- A field above the byte count does not depend on it. -/
theorem extract_writeWord_high (sol eol irq1 : Bool) (cnt : WriteCnt) (count : BitVec 12) (at1 len : Nat)
    (h : 12 ≤ at1) :
    (writeWord sol eol irq1 cnt count).extractLsb' at1 len = (writeWord sol eol irq1 cnt 0#12).extractLsb' at1 len := by
  apply BitVec.eq_of_getLsbD_eq
  intro i hi
  simp only [BitVec.getLsbD_extractLsb']
  rw [writeWord_getLsbD_high _ _ _ _ _ (by omega)]

theorem fieldOp_writeWord (sol eol irq1 : Bool) (cnt : WriteCnt) (count : BitVec 12) :
    fieldOp (writeWord sol eol irq1 cnt count) = 0b0001#4 := by
  rw [fieldOp, extract_writeWord_high _ _ _ _ _ _ _ (by omega)]
  cases sol <;> cases eol <;> cases irq1 <;> cases cnt <;> decide

theorem fieldReservedHi_writeWord (sol eol irq1 : Bool) (cnt : WriteCnt) (count : BitVec 12) :
    fieldReservedHi (writeWord sol eol irq1 cnt count) = 0#6 := by
  rw [fieldReservedHi, extract_writeWord_high _ _ _ _ _ _ _ (by omega)]
  cases sol <;> cases eol <;> cases irq1 <;> cases cnt <;> decide

theorem fieldReservedLo_writeWord (sol eol irq1 : Bool) (cnt : WriteCnt) (count : BitVec 12) :
    fieldReservedLo (writeWord sol eol irq1 cnt count) = 0#4 := by
  rw [fieldReservedLo, extract_writeWord_high _ _ _ _ _ _ _ (by omega)]
  cases sol <;> cases eol <;> cases irq1 <;> cases cnt <;> decide

theorem fieldCnt_writeWord (sol eol irq1 : Bool) (cnt : WriteCnt) (count : BitVec 12) :
    fieldCnt (writeWord sol eol irq1 cnt count) = writeCntBits cnt := by
  rw [fieldCnt, extract_writeWord_high _ _ _ _ _ _ _ (by omega)]
  cases sol <;> cases eol <;> cases irq1 <;> cases cnt <;> decide

theorem writeCntOfBits_writeCntBits (cnt : WriteCnt) : writeCntOfBits (writeCntBits cnt) = some cnt := by
  cases cnt <;> rfl

/-- A WRITE's control word with a byte count decodes to its own fields (30_encoding R57, R65). -/
theorem decodeControl_writeWord (sol eol irq1 : Bool) (cnt : WriteCnt) {count : BitVec 12} (h : count ≠ 0#12) :
    decodeControl (writeWord sol eol irq1 cnt count) = .ok (.write sol eol irq1 cnt count) := by
  simp [decodeControl, decodeWrite, fieldOp_writeWord, fieldIrq2_writeWord, fieldReservedHi_writeWord,
    fieldReservedLo_writeWord, fieldCount_writeWord, fieldCnt_writeWord, writeCntOfBits_writeCntBits,
    fieldSol_writeWord, fieldEol_writeWord, fieldIrq1_writeWord, h]

end Sys2Proof
end

