-- ==== Sys2Proof/Laws/Memory.lean ====
section
/-! SUPPORT. Host memory: a read after a write, and the canonical form, which every memory operation keeps. -/

namespace Sys2Proof.Machine

open Sys2Proof

/-! ## Reading -/

theorem Memory.read_cons (k : Nat) (c : Byte) (m : Memory) (a : Nat) :
    Memory.read ((k, c) :: m) a = if k = a then c else m.read a := rfl

/-- Below the first entry nothing is listed. -/
theorem Memory.read_of_lt {lo : Nat} {m : Memory} (h : m.wfFrom lo = true) {a : Nat} (ha : a < lo) :
    m.read a = Memory.unlisted := by
  induction m generalizing lo with
  | nil => rfl
  | cons e m ih =>
    obtain ⟨k, c⟩ := e
    simp only [Memory.wfFrom, Bool.and_eq_true, decide_eq_true_eq] at h
    have hk : k ≠ a := by omega
    simp only [Memory.read, hk, if_false]
    exact ih h.2 (by omega)

/-- A read after a write: the byte written at its address, the old byte everywhere else. -/
theorem Memory.read_write {lo : Nat} {m : Memory} (h : m.wfFrom lo = true) (a x : Nat) (b : Byte) :
    (m.write a b).read x = if x = a then b else m.read x := by
  induction m generalizing lo with
  | nil =>
    by_cases hb : b = Memory.unlisted <;> by_cases hx : x = a
    · simp [Memory.write, Memory.read, hb]
    · simp [Memory.write, Memory.read, hb]
    · simp [Memory.write, Memory.read, hb, hx]
    · simp [Memory.write, Memory.read, hb, hx, Ne.symm hx]
  | cons e m ih =>
    obtain ⟨k, c⟩ := e
    simp only [Memory.wfFrom, Bool.and_eq_true, decide_eq_true_eq] at h
    have hlow : ∀ y, y ≤ k → Memory.read m y = Memory.unlisted := fun y hy =>
      Memory.read_of_lt h.2 (by omega)
    rcases Nat.lt_trichotomy a k with hak | rfl | hka
    · have hread : Memory.read ((k, c) :: m) a = Memory.unlisted := by
        have : k ≠ a := by omega
        simp [Memory.read, this, hlow a (by omega)]
      by_cases hb : b = Memory.unlisted <;> by_cases hx : x = a
      · subst hx; simp [Memory.write, hak, hb, hread]
      · simp [Memory.write, hak, hb, hx]
      · subst hx; simp [Memory.write, Memory.read, hak, hb]
      · simp only [Memory.write, hak, if_true, hb, if_false, hx]
        rw [Memory.read_cons, if_neg (Ne.symm hx)]
    · by_cases hb : b = Memory.unlisted <;> by_cases hx : x = a
      · subst hx; simp [Memory.write, hb, hlow x (Nat.le_refl x)]
      · simp [Memory.write, Memory.read, hb, hx, Ne.symm hx]
      · subst hx; simp [Memory.write, Memory.read, hb]
      · simp [Memory.write, Memory.read, hb, hx, Ne.symm hx]
    · have h1 : ¬ a < k := by omega
      have h2 : a ≠ k := by omega
      by_cases hkx : k = x
      · subst hkx
        simp only [Memory.write, h1, if_false, h2, Memory.read_cons, if_true, Ne.symm h2]
      · simp [Memory.write, Memory.read, h1, h2, hkx, ih h.2]

@[simp] theorem Memory.read_write_same {m : Memory} (h : m.wf = true) (a : Nat) (b : Byte) :
    (m.write a b).read a = b := by simp [Memory.read_write h]

theorem Memory.read_write_other {m : Memory} (h : m.wf = true) {a x : Nat} (hx : x ≠ a) (b : Byte) :
    (m.write a b).read x = m.read x := by simp [Memory.read_write h, hx]

/-! ## The canonical form -/

theorem Memory.wfFrom_mono {lo lo' : Nat} {m : Memory} (h : m.wfFrom lo = true) (hle : lo' ≤ lo) :
    m.wfFrom lo' = true := by
  cases m with
  | nil => rfl
  | cons e m =>
    simp only [Memory.wfFrom, Bool.and_eq_true, decide_eq_true_eq] at h ⊢
    exact ⟨⟨⟨by omega, h.1.1.2⟩, h.1.2⟩, h.2⟩

theorem Memory.wfFrom_write {lo : Nat} {m : Memory} (h : m.wfFrom lo = true) {a : Nat} (hlo : lo ≤ a)
    (ha : a < addressSpace) (b : Byte) : (m.write a b).wfFrom lo = true := by
  induction m generalizing lo with
  | nil => by_cases hb : b = Memory.unlisted <;> simp_all [Memory.write, Memory.wfFrom]
  | cons e m ih =>
    obtain ⟨k, c⟩ := e
    have h' := h
    simp only [Memory.wfFrom, Bool.and_eq_true, decide_eq_true_eq, bne_iff_ne, ne_eq] at h
    obtain ⟨⟨⟨h1, h2⟩, h3⟩, h4⟩ := h
    simp only [Memory.write]
    split
    · split
      · exact h'
      · have hak : a + 1 ≤ k := by omega
        simp_all [Memory.wfFrom]
    · split
      · split
        · exact Memory.wfFrom_mono h4 (by omega)
        · simp_all [Memory.wfFrom]
      · have := ih h4 (lo := k + 1) (by omega)
        simp_all [Memory.wfFrom]

/-- A byte write inside the address space keeps the canonical form. -/
theorem Memory.wf_write {m : Memory} (h : m.wf = true) {a : Nat} (ha : a < addressSpace) (b : Byte) :
    (m.write a b).wf = true := Memory.wfFrom_write h (Nat.zero_le a) ha b

/-- Bytes written inside the address space keep the canonical form. -/
theorem Memory.wf_writeBytes {m : Memory} (h : m.wf = true) {a : Nat} {bs : List Byte}
    (ha : a + bs.length ≤ addressSpace) : (m.writeBytes a bs).wf = true := by
  induction bs generalizing m a with
  | nil => exact h
  | cons b bs ih =>
    simp only [List.length_cons] at ha
    exact ih (Memory.wf_write h (by omega) b) (by omega)

/-- A read after bytes were written: the byte written at its offset, the old byte outside them. -/
theorem Memory.read_writeBytes {m : Memory} (h : m.wf = true) {a : Nat} {bs : List Byte}
    (ha : a + bs.length ≤ addressSpace) (x : Nat) :
    (m.writeBytes a bs).read x = if a ≤ x then (bs[x - a]?).getD (m.read x) else m.read x := by
  induction bs generalizing m a with
  | nil => simp [Memory.writeBytes]
  | cons b bs ih =>
    simp only [List.length_cons] at ha
    simp only [Memory.writeBytes]
    rw [ih (Memory.wf_write h (by omega) b) (by omega), Memory.read_write h]
    by_cases hx : x = a
    · subst hx; simp
    · by_cases hax : a ≤ x
      · have hs : x - a = x - (a + 1) + 1 := by omega
        have hlt : a + 1 ≤ x := by omega
        simp [hx, hax, hlt, hs]
      · simp [hx, hax]; omega

/-! ## Words -/

@[simp] theorem bytesOfWord_length (w : Word) : (bytesOfWord w).length = 4 := rfl

@[simp] theorem bytesOfWords_length (ws : List Word) : (bytesOfWords ws).length = 4 * ws.length := by
  induction ws with
  | nil => rfl
  | cons w ws ih => simp [bytesOfWords, ih]; omega

/-- 32-bit words written inside the address space keep the canonical form. -/
theorem Memory.wf_writeWords {m : Memory} (h : m.wf = true) {a : Nat} {ws : List Word}
    (ha : a + 4 * ws.length ≤ addressSpace) : (m.writeWords a ws).wf = true :=
  Memory.wf_writeBytes h (by simpa using ha)

/-- A word's bytes, lowest address first, are the word (20_memory R37). -/
theorem wordOfBytes_bytesOfWord (w : Word) :
    wordOfBytes (w.extractLsb' 0 8) (w.extractLsb' 8 8) (w.extractLsb' 16 8) (w.extractLsb' 24 8) = w := by
  apply BitVec.eq_of_getLsbD_eq
  intro i hi
  simp only [wordOfBytes, BitVec.getLsbD_append, BitVec.getLsbD_extractLsb']
  split
  · simp_all
  · split
    · have : 8 + (i - 8) = i := by omega
      simp_all
    · split
      · have : 16 + (i - 8 - 8) = i := by omega
        simp_all
      · have : 24 + (i - 8 - 8 - 8) = i := by omega
        have : i - 8 - 8 - 8 < 8 := by omega
        simp_all

theorem takeWord_bytesOfWord (w : Word) (rest : List Byte) : takeWord (bytesOfWord w ++ rest) = some (w, rest) := by
  simp [takeWord, bytesOfWord, wordOfBytes_bytesOfWord]

/-! ## Filling the pages -/

/-- A byte inside a page is inside the address space. -/
theorem pageCovers_lt {p : Params} {a len : Nat} (h : pageCovers p a len = true) : a + len ≤ addressSpace := by
  simp only [pageCovers, Bool.and_eq_true, decide_eq_true_eq] at h
  exact h.2

/-- Filling the pages keeps the canonical form. -/
theorem wf_fillCells {p : Params} {m : Memory} (h : m.wf = true) (cells : List Host.Cell) :
    (fillCells p m cells).wf = true := by
  induction cells generalizing m with
  | nil => exact h
  | cons e cells ih =>
    obtain ⟨a, b⟩ := e
    simp only [fillCells]
    split
    next hp => exact ih (Memory.wf_write h (by have := pageCovers_lt hp; omega) b)
    next => exact ih h

/-- Filling the pages changes no byte outside them. -/
theorem read_fillCells {p : Params} {m : Memory} (h : m.wf = true) (cells : List Host.Cell) {x : Nat}
    (hx : pageCovers p x 1 = false) : (fillCells p m cells).read x = m.read x := by
  induction cells generalizing m with
  | nil => rfl
  | cons e cells ih =>
    obtain ⟨a, b⟩ := e
    simp only [fillCells]
    split
    next hp =>
      rw [ih (Memory.wf_write h (by have := pageCovers_lt hp; omega) b), Memory.read_write_other h]
      rintro rfl; simp_all
    next => exact ih h

end Sys2Proof.Machine
end

