-- ==== Sys2Proof/Laws/State.lean ====
section
/-! SUPPORT. What each field of State is after each named update: one lemma per field per update, true by `rfl`. -/

namespace Sys2Proof.Machine.State

variable (s : State)

@[simp] theorem setMem_par (v : Memory) : (s.setMem v).par = s.par := rfl
@[simp] theorem setMem_mem (v : Memory) : (s.setMem v).mem = v := rfl
@[simp] theorem setMem_engRun (v : Memory) : (s.setMem v).engRun = s.engRun := rfl
@[simp] theorem setMem_epc (v : Memory) : (s.setMem v).epc = s.epc := rfl
@[simp] theorem setMem_engPhase (v : Memory) : (s.setMem v).engPhase = s.engPhase := rfl
@[simp] theorem setMem_gpcnt (v : Memory) : (s.setMem v).gpcnt = s.gpcnt := rfl
@[simp] theorem setMem_vidEn (v : Memory) : (s.setMem v).vidEn = s.vidEn := rfl
@[simp] theorem setMem_irq1En (v : Memory) : (s.setMem v).irq1En = s.irq1En := rfl
@[simp] theorem setMem_irq1Stat (v : Memory) : (s.setMem v).irq1Stat = s.irq1Stat := rfl
@[simp] theorem setMem_dmaPtr (v : Memory) : (s.setMem v).dmaPtr = s.dmaPtr := rfl
@[simp] theorem setMem_dmaCdtPtr (v : Memory) : (s.setMem v).dmaCdtPtr = s.dmaCdtPtr := rfl
@[simp] theorem setMem_dmaCdtSize (v : Memory) : (s.setMem v).dmaCdtSize = s.dmaCdtSize := rfl
@[simp] theorem setMem_pool (v : Memory) : (s.setMem v).pool = s.pool := rfl
@[simp] theorem setMem_cdtBuilt (v : Memory) : (s.setMem v).cdtBuilt = s.cdtBuilt := rfl
@[simp] theorem setMem_progBuilt (v : Memory) : (s.setMem v).progBuilt = s.progBuilt := rfl
@[simp] theorem setMem_sess (v : Memory) : (s.setMem v).sess = s.sess := rfl
@[simp] theorem setMem_startPage (v : Memory) : (s.setMem v).startPage = s.startPage := rfl
@[simp] theorem setMem_pos (v : Memory) : (s.setMem v).pos = s.pos := rfl
@[simp] theorem setMem_dataReady (v : Memory) : (s.setMem v).dataReady = s.dataReady := rfl
@[simp] theorem setMem_rdCtx (v : Memory) : (s.setMem v).rdCtx = s.rdCtx := rfl
@[simp] theorem setMem_synced (v : Memory) : (s.setMem v).synced = s.synced := rfl
@[simp] theorem setMem_sink (v : Memory) : (s.setMem v).sink = s.sink := rfl
@[simp] theorem setMem_results (v : Memory) : (s.setMem v).results = s.results := rfl
@[simp] theorem setMem_regReads (v : Memory) : (s.setMem v).regReads = s.regReads := rfl
@[simp] theorem setMem_agenda (v : Memory) : (s.setMem v).agenda = s.agenda := rfl
@[simp] theorem setMem_draws (v : Memory) : (s.setMem v).draws = s.draws := rfl

@[simp] theorem setEngRun_par (v : EngRun) : (s.setEngRun v).par = s.par := rfl
@[simp] theorem setEngRun_mem (v : EngRun) : (s.setEngRun v).mem = s.mem := rfl
@[simp] theorem setEngRun_engRun (v : EngRun) : (s.setEngRun v).engRun = v := rfl
@[simp] theorem setEngRun_epc (v : EngRun) : (s.setEngRun v).epc = s.epc := rfl
@[simp] theorem setEngRun_engPhase (v : EngRun) : (s.setEngRun v).engPhase = s.engPhase := rfl
@[simp] theorem setEngRun_gpcnt (v : EngRun) : (s.setEngRun v).gpcnt = s.gpcnt := rfl
@[simp] theorem setEngRun_vidEn (v : EngRun) : (s.setEngRun v).vidEn = s.vidEn := rfl
@[simp] theorem setEngRun_irq1En (v : EngRun) : (s.setEngRun v).irq1En = s.irq1En := rfl
@[simp] theorem setEngRun_irq1Stat (v : EngRun) : (s.setEngRun v).irq1Stat = s.irq1Stat := rfl
@[simp] theorem setEngRun_dmaPtr (v : EngRun) : (s.setEngRun v).dmaPtr = s.dmaPtr := rfl
@[simp] theorem setEngRun_dmaCdtPtr (v : EngRun) : (s.setEngRun v).dmaCdtPtr = s.dmaCdtPtr := rfl
@[simp] theorem setEngRun_dmaCdtSize (v : EngRun) : (s.setEngRun v).dmaCdtSize = s.dmaCdtSize := rfl
@[simp] theorem setEngRun_pool (v : EngRun) : (s.setEngRun v).pool = s.pool := rfl
@[simp] theorem setEngRun_cdtBuilt (v : EngRun) : (s.setEngRun v).cdtBuilt = s.cdtBuilt := rfl
@[simp] theorem setEngRun_progBuilt (v : EngRun) : (s.setEngRun v).progBuilt = s.progBuilt := rfl
@[simp] theorem setEngRun_sess (v : EngRun) : (s.setEngRun v).sess = s.sess := rfl
@[simp] theorem setEngRun_startPage (v : EngRun) : (s.setEngRun v).startPage = s.startPage := rfl
@[simp] theorem setEngRun_pos (v : EngRun) : (s.setEngRun v).pos = s.pos := rfl
@[simp] theorem setEngRun_dataReady (v : EngRun) : (s.setEngRun v).dataReady = s.dataReady := rfl
@[simp] theorem setEngRun_rdCtx (v : EngRun) : (s.setEngRun v).rdCtx = s.rdCtx := rfl
@[simp] theorem setEngRun_synced (v : EngRun) : (s.setEngRun v).synced = s.synced := rfl
@[simp] theorem setEngRun_sink (v : EngRun) : (s.setEngRun v).sink = s.sink := rfl
@[simp] theorem setEngRun_results (v : EngRun) : (s.setEngRun v).results = s.results := rfl
@[simp] theorem setEngRun_regReads (v : EngRun) : (s.setEngRun v).regReads = s.regReads := rfl
@[simp] theorem setEngRun_agenda (v : EngRun) : (s.setEngRun v).agenda = s.agenda := rfl
@[simp] theorem setEngRun_draws (v : EngRun) : (s.setEngRun v).draws = s.draws := rfl

@[simp] theorem setEpc_par (v : Word) : (s.setEpc v).par = s.par := rfl
@[simp] theorem setEpc_mem (v : Word) : (s.setEpc v).mem = s.mem := rfl
@[simp] theorem setEpc_engRun (v : Word) : (s.setEpc v).engRun = s.engRun := rfl
@[simp] theorem setEpc_epc (v : Word) : (s.setEpc v).epc = v := rfl
@[simp] theorem setEpc_engPhase (v : Word) : (s.setEpc v).engPhase = s.engPhase := rfl
@[simp] theorem setEpc_gpcnt (v : Word) : (s.setEpc v).gpcnt = s.gpcnt := rfl
@[simp] theorem setEpc_vidEn (v : Word) : (s.setEpc v).vidEn = s.vidEn := rfl
@[simp] theorem setEpc_irq1En (v : Word) : (s.setEpc v).irq1En = s.irq1En := rfl
@[simp] theorem setEpc_irq1Stat (v : Word) : (s.setEpc v).irq1Stat = s.irq1Stat := rfl
@[simp] theorem setEpc_dmaPtr (v : Word) : (s.setEpc v).dmaPtr = s.dmaPtr := rfl
@[simp] theorem setEpc_dmaCdtPtr (v : Word) : (s.setEpc v).dmaCdtPtr = s.dmaCdtPtr := rfl
@[simp] theorem setEpc_dmaCdtSize (v : Word) : (s.setEpc v).dmaCdtSize = s.dmaCdtSize := rfl
@[simp] theorem setEpc_pool (v : Word) : (s.setEpc v).pool = s.pool := rfl
@[simp] theorem setEpc_cdtBuilt (v : Word) : (s.setEpc v).cdtBuilt = s.cdtBuilt := rfl
@[simp] theorem setEpc_progBuilt (v : Word) : (s.setEpc v).progBuilt = s.progBuilt := rfl
@[simp] theorem setEpc_sess (v : Word) : (s.setEpc v).sess = s.sess := rfl
@[simp] theorem setEpc_startPage (v : Word) : (s.setEpc v).startPage = s.startPage := rfl
@[simp] theorem setEpc_pos (v : Word) : (s.setEpc v).pos = s.pos := rfl
@[simp] theorem setEpc_dataReady (v : Word) : (s.setEpc v).dataReady = s.dataReady := rfl
@[simp] theorem setEpc_rdCtx (v : Word) : (s.setEpc v).rdCtx = s.rdCtx := rfl
@[simp] theorem setEpc_synced (v : Word) : (s.setEpc v).synced = s.synced := rfl
@[simp] theorem setEpc_sink (v : Word) : (s.setEpc v).sink = s.sink := rfl
@[simp] theorem setEpc_results (v : Word) : (s.setEpc v).results = s.results := rfl
@[simp] theorem setEpc_regReads (v : Word) : (s.setEpc v).regReads = s.regReads := rfl
@[simp] theorem setEpc_agenda (v : Word) : (s.setEpc v).agenda = s.agenda := rfl
@[simp] theorem setEpc_draws (v : Word) : (s.setEpc v).draws = s.draws := rfl

@[simp] theorem setEngPhase_par (v : EngPhase) : (s.setEngPhase v).par = s.par := rfl
@[simp] theorem setEngPhase_mem (v : EngPhase) : (s.setEngPhase v).mem = s.mem := rfl
@[simp] theorem setEngPhase_engRun (v : EngPhase) : (s.setEngPhase v).engRun = s.engRun := rfl
@[simp] theorem setEngPhase_epc (v : EngPhase) : (s.setEngPhase v).epc = s.epc := rfl
@[simp] theorem setEngPhase_engPhase (v : EngPhase) : (s.setEngPhase v).engPhase = v := rfl
@[simp] theorem setEngPhase_gpcnt (v : EngPhase) : (s.setEngPhase v).gpcnt = s.gpcnt := rfl
@[simp] theorem setEngPhase_vidEn (v : EngPhase) : (s.setEngPhase v).vidEn = s.vidEn := rfl
@[simp] theorem setEngPhase_irq1En (v : EngPhase) : (s.setEngPhase v).irq1En = s.irq1En := rfl
@[simp] theorem setEngPhase_irq1Stat (v : EngPhase) : (s.setEngPhase v).irq1Stat = s.irq1Stat := rfl
@[simp] theorem setEngPhase_dmaPtr (v : EngPhase) : (s.setEngPhase v).dmaPtr = s.dmaPtr := rfl
@[simp] theorem setEngPhase_dmaCdtPtr (v : EngPhase) : (s.setEngPhase v).dmaCdtPtr = s.dmaCdtPtr := rfl
@[simp] theorem setEngPhase_dmaCdtSize (v : EngPhase) : (s.setEngPhase v).dmaCdtSize = s.dmaCdtSize := rfl
@[simp] theorem setEngPhase_pool (v : EngPhase) : (s.setEngPhase v).pool = s.pool := rfl
@[simp] theorem setEngPhase_cdtBuilt (v : EngPhase) : (s.setEngPhase v).cdtBuilt = s.cdtBuilt := rfl
@[simp] theorem setEngPhase_progBuilt (v : EngPhase) : (s.setEngPhase v).progBuilt = s.progBuilt := rfl
@[simp] theorem setEngPhase_sess (v : EngPhase) : (s.setEngPhase v).sess = s.sess := rfl
@[simp] theorem setEngPhase_startPage (v : EngPhase) : (s.setEngPhase v).startPage = s.startPage := rfl
@[simp] theorem setEngPhase_pos (v : EngPhase) : (s.setEngPhase v).pos = s.pos := rfl
@[simp] theorem setEngPhase_dataReady (v : EngPhase) : (s.setEngPhase v).dataReady = s.dataReady := rfl
@[simp] theorem setEngPhase_rdCtx (v : EngPhase) : (s.setEngPhase v).rdCtx = s.rdCtx := rfl
@[simp] theorem setEngPhase_synced (v : EngPhase) : (s.setEngPhase v).synced = s.synced := rfl
@[simp] theorem setEngPhase_sink (v : EngPhase) : (s.setEngPhase v).sink = s.sink := rfl
@[simp] theorem setEngPhase_results (v : EngPhase) : (s.setEngPhase v).results = s.results := rfl
@[simp] theorem setEngPhase_regReads (v : EngPhase) : (s.setEngPhase v).regReads = s.regReads := rfl
@[simp] theorem setEngPhase_agenda (v : EngPhase) : (s.setEngPhase v).agenda = s.agenda := rfl
@[simp] theorem setEngPhase_draws (v : EngPhase) : (s.setEngPhase v).draws = s.draws := rfl

@[simp] theorem setGpcnt_par (v : Half) : (s.setGpcnt v).par = s.par := rfl
@[simp] theorem setGpcnt_mem (v : Half) : (s.setGpcnt v).mem = s.mem := rfl
@[simp] theorem setGpcnt_engRun (v : Half) : (s.setGpcnt v).engRun = s.engRun := rfl
@[simp] theorem setGpcnt_epc (v : Half) : (s.setGpcnt v).epc = s.epc := rfl
@[simp] theorem setGpcnt_engPhase (v : Half) : (s.setGpcnt v).engPhase = s.engPhase := rfl
@[simp] theorem setGpcnt_gpcnt (v : Half) : (s.setGpcnt v).gpcnt = v := rfl
@[simp] theorem setGpcnt_vidEn (v : Half) : (s.setGpcnt v).vidEn = s.vidEn := rfl
@[simp] theorem setGpcnt_irq1En (v : Half) : (s.setGpcnt v).irq1En = s.irq1En := rfl
@[simp] theorem setGpcnt_irq1Stat (v : Half) : (s.setGpcnt v).irq1Stat = s.irq1Stat := rfl
@[simp] theorem setGpcnt_dmaPtr (v : Half) : (s.setGpcnt v).dmaPtr = s.dmaPtr := rfl
@[simp] theorem setGpcnt_dmaCdtPtr (v : Half) : (s.setGpcnt v).dmaCdtPtr = s.dmaCdtPtr := rfl
@[simp] theorem setGpcnt_dmaCdtSize (v : Half) : (s.setGpcnt v).dmaCdtSize = s.dmaCdtSize := rfl
@[simp] theorem setGpcnt_pool (v : Half) : (s.setGpcnt v).pool = s.pool := rfl
@[simp] theorem setGpcnt_cdtBuilt (v : Half) : (s.setGpcnt v).cdtBuilt = s.cdtBuilt := rfl
@[simp] theorem setGpcnt_progBuilt (v : Half) : (s.setGpcnt v).progBuilt = s.progBuilt := rfl
@[simp] theorem setGpcnt_sess (v : Half) : (s.setGpcnt v).sess = s.sess := rfl
@[simp] theorem setGpcnt_startPage (v : Half) : (s.setGpcnt v).startPage = s.startPage := rfl
@[simp] theorem setGpcnt_pos (v : Half) : (s.setGpcnt v).pos = s.pos := rfl
@[simp] theorem setGpcnt_dataReady (v : Half) : (s.setGpcnt v).dataReady = s.dataReady := rfl
@[simp] theorem setGpcnt_rdCtx (v : Half) : (s.setGpcnt v).rdCtx = s.rdCtx := rfl
@[simp] theorem setGpcnt_synced (v : Half) : (s.setGpcnt v).synced = s.synced := rfl
@[simp] theorem setGpcnt_sink (v : Half) : (s.setGpcnt v).sink = s.sink := rfl
@[simp] theorem setGpcnt_results (v : Half) : (s.setGpcnt v).results = s.results := rfl
@[simp] theorem setGpcnt_regReads (v : Half) : (s.setGpcnt v).regReads = s.regReads := rfl
@[simp] theorem setGpcnt_agenda (v : Half) : (s.setGpcnt v).agenda = s.agenda := rfl
@[simp] theorem setGpcnt_draws (v : Half) : (s.setGpcnt v).draws = s.draws := rfl

@[simp] theorem setVidEn_par (v : Bool) : (s.setVidEn v).par = s.par := rfl
@[simp] theorem setVidEn_mem (v : Bool) : (s.setVidEn v).mem = s.mem := rfl
@[simp] theorem setVidEn_engRun (v : Bool) : (s.setVidEn v).engRun = s.engRun := rfl
@[simp] theorem setVidEn_epc (v : Bool) : (s.setVidEn v).epc = s.epc := rfl
@[simp] theorem setVidEn_engPhase (v : Bool) : (s.setVidEn v).engPhase = s.engPhase := rfl
@[simp] theorem setVidEn_gpcnt (v : Bool) : (s.setVidEn v).gpcnt = s.gpcnt := rfl
@[simp] theorem setVidEn_vidEn (v : Bool) : (s.setVidEn v).vidEn = v := rfl
@[simp] theorem setVidEn_irq1En (v : Bool) : (s.setVidEn v).irq1En = s.irq1En := rfl
@[simp] theorem setVidEn_irq1Stat (v : Bool) : (s.setVidEn v).irq1Stat = s.irq1Stat := rfl
@[simp] theorem setVidEn_dmaPtr (v : Bool) : (s.setVidEn v).dmaPtr = s.dmaPtr := rfl
@[simp] theorem setVidEn_dmaCdtPtr (v : Bool) : (s.setVidEn v).dmaCdtPtr = s.dmaCdtPtr := rfl
@[simp] theorem setVidEn_dmaCdtSize (v : Bool) : (s.setVidEn v).dmaCdtSize = s.dmaCdtSize := rfl
@[simp] theorem setVidEn_pool (v : Bool) : (s.setVidEn v).pool = s.pool := rfl
@[simp] theorem setVidEn_cdtBuilt (v : Bool) : (s.setVidEn v).cdtBuilt = s.cdtBuilt := rfl
@[simp] theorem setVidEn_progBuilt (v : Bool) : (s.setVidEn v).progBuilt = s.progBuilt := rfl
@[simp] theorem setVidEn_sess (v : Bool) : (s.setVidEn v).sess = s.sess := rfl
@[simp] theorem setVidEn_startPage (v : Bool) : (s.setVidEn v).startPage = s.startPage := rfl
@[simp] theorem setVidEn_pos (v : Bool) : (s.setVidEn v).pos = s.pos := rfl
@[simp] theorem setVidEn_dataReady (v : Bool) : (s.setVidEn v).dataReady = s.dataReady := rfl
@[simp] theorem setVidEn_rdCtx (v : Bool) : (s.setVidEn v).rdCtx = s.rdCtx := rfl
@[simp] theorem setVidEn_synced (v : Bool) : (s.setVidEn v).synced = s.synced := rfl
@[simp] theorem setVidEn_sink (v : Bool) : (s.setVidEn v).sink = s.sink := rfl
@[simp] theorem setVidEn_results (v : Bool) : (s.setVidEn v).results = s.results := rfl
@[simp] theorem setVidEn_regReads (v : Bool) : (s.setVidEn v).regReads = s.regReads := rfl
@[simp] theorem setVidEn_agenda (v : Bool) : (s.setVidEn v).agenda = s.agenda := rfl
@[simp] theorem setVidEn_draws (v : Bool) : (s.setVidEn v).draws = s.draws := rfl

@[simp] theorem setIrq1En_par (v : Bool) : (s.setIrq1En v).par = s.par := rfl
@[simp] theorem setIrq1En_mem (v : Bool) : (s.setIrq1En v).mem = s.mem := rfl
@[simp] theorem setIrq1En_engRun (v : Bool) : (s.setIrq1En v).engRun = s.engRun := rfl
@[simp] theorem setIrq1En_epc (v : Bool) : (s.setIrq1En v).epc = s.epc := rfl
@[simp] theorem setIrq1En_engPhase (v : Bool) : (s.setIrq1En v).engPhase = s.engPhase := rfl
@[simp] theorem setIrq1En_gpcnt (v : Bool) : (s.setIrq1En v).gpcnt = s.gpcnt := rfl
@[simp] theorem setIrq1En_vidEn (v : Bool) : (s.setIrq1En v).vidEn = s.vidEn := rfl
@[simp] theorem setIrq1En_irq1En (v : Bool) : (s.setIrq1En v).irq1En = v := rfl
@[simp] theorem setIrq1En_irq1Stat (v : Bool) : (s.setIrq1En v).irq1Stat = s.irq1Stat := rfl
@[simp] theorem setIrq1En_dmaPtr (v : Bool) : (s.setIrq1En v).dmaPtr = s.dmaPtr := rfl
@[simp] theorem setIrq1En_dmaCdtPtr (v : Bool) : (s.setIrq1En v).dmaCdtPtr = s.dmaCdtPtr := rfl
@[simp] theorem setIrq1En_dmaCdtSize (v : Bool) : (s.setIrq1En v).dmaCdtSize = s.dmaCdtSize := rfl
@[simp] theorem setIrq1En_pool (v : Bool) : (s.setIrq1En v).pool = s.pool := rfl
@[simp] theorem setIrq1En_cdtBuilt (v : Bool) : (s.setIrq1En v).cdtBuilt = s.cdtBuilt := rfl
@[simp] theorem setIrq1En_progBuilt (v : Bool) : (s.setIrq1En v).progBuilt = s.progBuilt := rfl
@[simp] theorem setIrq1En_sess (v : Bool) : (s.setIrq1En v).sess = s.sess := rfl
@[simp] theorem setIrq1En_startPage (v : Bool) : (s.setIrq1En v).startPage = s.startPage := rfl
@[simp] theorem setIrq1En_pos (v : Bool) : (s.setIrq1En v).pos = s.pos := rfl
@[simp] theorem setIrq1En_dataReady (v : Bool) : (s.setIrq1En v).dataReady = s.dataReady := rfl
@[simp] theorem setIrq1En_rdCtx (v : Bool) : (s.setIrq1En v).rdCtx = s.rdCtx := rfl
@[simp] theorem setIrq1En_synced (v : Bool) : (s.setIrq1En v).synced = s.synced := rfl
@[simp] theorem setIrq1En_sink (v : Bool) : (s.setIrq1En v).sink = s.sink := rfl
@[simp] theorem setIrq1En_results (v : Bool) : (s.setIrq1En v).results = s.results := rfl
@[simp] theorem setIrq1En_regReads (v : Bool) : (s.setIrq1En v).regReads = s.regReads := rfl
@[simp] theorem setIrq1En_agenda (v : Bool) : (s.setIrq1En v).agenda = s.agenda := rfl
@[simp] theorem setIrq1En_draws (v : Bool) : (s.setIrq1En v).draws = s.draws := rfl

@[simp] theorem setIrq1Stat_par (v : Bool) : (s.setIrq1Stat v).par = s.par := rfl
@[simp] theorem setIrq1Stat_mem (v : Bool) : (s.setIrq1Stat v).mem = s.mem := rfl
@[simp] theorem setIrq1Stat_engRun (v : Bool) : (s.setIrq1Stat v).engRun = s.engRun := rfl
@[simp] theorem setIrq1Stat_epc (v : Bool) : (s.setIrq1Stat v).epc = s.epc := rfl
@[simp] theorem setIrq1Stat_engPhase (v : Bool) : (s.setIrq1Stat v).engPhase = s.engPhase := rfl
@[simp] theorem setIrq1Stat_gpcnt (v : Bool) : (s.setIrq1Stat v).gpcnt = s.gpcnt := rfl
@[simp] theorem setIrq1Stat_vidEn (v : Bool) : (s.setIrq1Stat v).vidEn = s.vidEn := rfl
@[simp] theorem setIrq1Stat_irq1En (v : Bool) : (s.setIrq1Stat v).irq1En = s.irq1En := rfl
@[simp] theorem setIrq1Stat_irq1Stat (v : Bool) : (s.setIrq1Stat v).irq1Stat = v := rfl
@[simp] theorem setIrq1Stat_dmaPtr (v : Bool) : (s.setIrq1Stat v).dmaPtr = s.dmaPtr := rfl
@[simp] theorem setIrq1Stat_dmaCdtPtr (v : Bool) : (s.setIrq1Stat v).dmaCdtPtr = s.dmaCdtPtr := rfl
@[simp] theorem setIrq1Stat_dmaCdtSize (v : Bool) : (s.setIrq1Stat v).dmaCdtSize = s.dmaCdtSize := rfl
@[simp] theorem setIrq1Stat_pool (v : Bool) : (s.setIrq1Stat v).pool = s.pool := rfl
@[simp] theorem setIrq1Stat_cdtBuilt (v : Bool) : (s.setIrq1Stat v).cdtBuilt = s.cdtBuilt := rfl
@[simp] theorem setIrq1Stat_progBuilt (v : Bool) : (s.setIrq1Stat v).progBuilt = s.progBuilt := rfl
@[simp] theorem setIrq1Stat_sess (v : Bool) : (s.setIrq1Stat v).sess = s.sess := rfl
@[simp] theorem setIrq1Stat_startPage (v : Bool) : (s.setIrq1Stat v).startPage = s.startPage := rfl
@[simp] theorem setIrq1Stat_pos (v : Bool) : (s.setIrq1Stat v).pos = s.pos := rfl
@[simp] theorem setIrq1Stat_dataReady (v : Bool) : (s.setIrq1Stat v).dataReady = s.dataReady := rfl
@[simp] theorem setIrq1Stat_rdCtx (v : Bool) : (s.setIrq1Stat v).rdCtx = s.rdCtx := rfl
@[simp] theorem setIrq1Stat_synced (v : Bool) : (s.setIrq1Stat v).synced = s.synced := rfl
@[simp] theorem setIrq1Stat_sink (v : Bool) : (s.setIrq1Stat v).sink = s.sink := rfl
@[simp] theorem setIrq1Stat_results (v : Bool) : (s.setIrq1Stat v).results = s.results := rfl
@[simp] theorem setIrq1Stat_regReads (v : Bool) : (s.setIrq1Stat v).regReads = s.regReads := rfl
@[simp] theorem setIrq1Stat_agenda (v : Bool) : (s.setIrq1Stat v).agenda = s.agenda := rfl
@[simp] theorem setIrq1Stat_draws (v : Bool) : (s.setIrq1Stat v).draws = s.draws := rfl

@[simp] theorem setDmaPtr_par (v : Word) : (s.setDmaPtr v).par = s.par := rfl
@[simp] theorem setDmaPtr_mem (v : Word) : (s.setDmaPtr v).mem = s.mem := rfl
@[simp] theorem setDmaPtr_engRun (v : Word) : (s.setDmaPtr v).engRun = s.engRun := rfl
@[simp] theorem setDmaPtr_epc (v : Word) : (s.setDmaPtr v).epc = s.epc := rfl
@[simp] theorem setDmaPtr_engPhase (v : Word) : (s.setDmaPtr v).engPhase = s.engPhase := rfl
@[simp] theorem setDmaPtr_gpcnt (v : Word) : (s.setDmaPtr v).gpcnt = s.gpcnt := rfl
@[simp] theorem setDmaPtr_vidEn (v : Word) : (s.setDmaPtr v).vidEn = s.vidEn := rfl
@[simp] theorem setDmaPtr_irq1En (v : Word) : (s.setDmaPtr v).irq1En = s.irq1En := rfl
@[simp] theorem setDmaPtr_irq1Stat (v : Word) : (s.setDmaPtr v).irq1Stat = s.irq1Stat := rfl
@[simp] theorem setDmaPtr_dmaPtr (v : Word) : (s.setDmaPtr v).dmaPtr = v := rfl
@[simp] theorem setDmaPtr_dmaCdtPtr (v : Word) : (s.setDmaPtr v).dmaCdtPtr = s.dmaCdtPtr := rfl
@[simp] theorem setDmaPtr_dmaCdtSize (v : Word) : (s.setDmaPtr v).dmaCdtSize = s.dmaCdtSize := rfl
@[simp] theorem setDmaPtr_pool (v : Word) : (s.setDmaPtr v).pool = s.pool := rfl
@[simp] theorem setDmaPtr_cdtBuilt (v : Word) : (s.setDmaPtr v).cdtBuilt = s.cdtBuilt := rfl
@[simp] theorem setDmaPtr_progBuilt (v : Word) : (s.setDmaPtr v).progBuilt = s.progBuilt := rfl
@[simp] theorem setDmaPtr_sess (v : Word) : (s.setDmaPtr v).sess = s.sess := rfl
@[simp] theorem setDmaPtr_startPage (v : Word) : (s.setDmaPtr v).startPage = s.startPage := rfl
@[simp] theorem setDmaPtr_pos (v : Word) : (s.setDmaPtr v).pos = s.pos := rfl
@[simp] theorem setDmaPtr_dataReady (v : Word) : (s.setDmaPtr v).dataReady = s.dataReady := rfl
@[simp] theorem setDmaPtr_rdCtx (v : Word) : (s.setDmaPtr v).rdCtx = s.rdCtx := rfl
@[simp] theorem setDmaPtr_synced (v : Word) : (s.setDmaPtr v).synced = s.synced := rfl
@[simp] theorem setDmaPtr_sink (v : Word) : (s.setDmaPtr v).sink = s.sink := rfl
@[simp] theorem setDmaPtr_results (v : Word) : (s.setDmaPtr v).results = s.results := rfl
@[simp] theorem setDmaPtr_regReads (v : Word) : (s.setDmaPtr v).regReads = s.regReads := rfl
@[simp] theorem setDmaPtr_agenda (v : Word) : (s.setDmaPtr v).agenda = s.agenda := rfl
@[simp] theorem setDmaPtr_draws (v : Word) : (s.setDmaPtr v).draws = s.draws := rfl

@[simp] theorem setDmaCdtPtr_par (v : Word) : (s.setDmaCdtPtr v).par = s.par := rfl
@[simp] theorem setDmaCdtPtr_mem (v : Word) : (s.setDmaCdtPtr v).mem = s.mem := rfl
@[simp] theorem setDmaCdtPtr_engRun (v : Word) : (s.setDmaCdtPtr v).engRun = s.engRun := rfl
@[simp] theorem setDmaCdtPtr_epc (v : Word) : (s.setDmaCdtPtr v).epc = s.epc := rfl
@[simp] theorem setDmaCdtPtr_engPhase (v : Word) : (s.setDmaCdtPtr v).engPhase = s.engPhase := rfl
@[simp] theorem setDmaCdtPtr_gpcnt (v : Word) : (s.setDmaCdtPtr v).gpcnt = s.gpcnt := rfl
@[simp] theorem setDmaCdtPtr_vidEn (v : Word) : (s.setDmaCdtPtr v).vidEn = s.vidEn := rfl
@[simp] theorem setDmaCdtPtr_irq1En (v : Word) : (s.setDmaCdtPtr v).irq1En = s.irq1En := rfl
@[simp] theorem setDmaCdtPtr_irq1Stat (v : Word) : (s.setDmaCdtPtr v).irq1Stat = s.irq1Stat := rfl
@[simp] theorem setDmaCdtPtr_dmaPtr (v : Word) : (s.setDmaCdtPtr v).dmaPtr = s.dmaPtr := rfl
@[simp] theorem setDmaCdtPtr_dmaCdtPtr (v : Word) : (s.setDmaCdtPtr v).dmaCdtPtr = v := rfl
@[simp] theorem setDmaCdtPtr_dmaCdtSize (v : Word) : (s.setDmaCdtPtr v).dmaCdtSize = s.dmaCdtSize := rfl
@[simp] theorem setDmaCdtPtr_pool (v : Word) : (s.setDmaCdtPtr v).pool = s.pool := rfl
@[simp] theorem setDmaCdtPtr_cdtBuilt (v : Word) : (s.setDmaCdtPtr v).cdtBuilt = s.cdtBuilt := rfl
@[simp] theorem setDmaCdtPtr_progBuilt (v : Word) : (s.setDmaCdtPtr v).progBuilt = s.progBuilt := rfl
@[simp] theorem setDmaCdtPtr_sess (v : Word) : (s.setDmaCdtPtr v).sess = s.sess := rfl
@[simp] theorem setDmaCdtPtr_startPage (v : Word) : (s.setDmaCdtPtr v).startPage = s.startPage := rfl
@[simp] theorem setDmaCdtPtr_pos (v : Word) : (s.setDmaCdtPtr v).pos = s.pos := rfl
@[simp] theorem setDmaCdtPtr_dataReady (v : Word) : (s.setDmaCdtPtr v).dataReady = s.dataReady := rfl
@[simp] theorem setDmaCdtPtr_rdCtx (v : Word) : (s.setDmaCdtPtr v).rdCtx = s.rdCtx := rfl
@[simp] theorem setDmaCdtPtr_synced (v : Word) : (s.setDmaCdtPtr v).synced = s.synced := rfl
@[simp] theorem setDmaCdtPtr_sink (v : Word) : (s.setDmaCdtPtr v).sink = s.sink := rfl
@[simp] theorem setDmaCdtPtr_results (v : Word) : (s.setDmaCdtPtr v).results = s.results := rfl
@[simp] theorem setDmaCdtPtr_regReads (v : Word) : (s.setDmaCdtPtr v).regReads = s.regReads := rfl
@[simp] theorem setDmaCdtPtr_agenda (v : Word) : (s.setDmaCdtPtr v).agenda = s.agenda := rfl
@[simp] theorem setDmaCdtPtr_draws (v : Word) : (s.setDmaCdtPtr v).draws = s.draws := rfl

@[simp] theorem setDmaCdtSize_par (v : Word) : (s.setDmaCdtSize v).par = s.par := rfl
@[simp] theorem setDmaCdtSize_mem (v : Word) : (s.setDmaCdtSize v).mem = s.mem := rfl
@[simp] theorem setDmaCdtSize_engRun (v : Word) : (s.setDmaCdtSize v).engRun = s.engRun := rfl
@[simp] theorem setDmaCdtSize_epc (v : Word) : (s.setDmaCdtSize v).epc = s.epc := rfl
@[simp] theorem setDmaCdtSize_engPhase (v : Word) : (s.setDmaCdtSize v).engPhase = s.engPhase := rfl
@[simp] theorem setDmaCdtSize_gpcnt (v : Word) : (s.setDmaCdtSize v).gpcnt = s.gpcnt := rfl
@[simp] theorem setDmaCdtSize_vidEn (v : Word) : (s.setDmaCdtSize v).vidEn = s.vidEn := rfl
@[simp] theorem setDmaCdtSize_irq1En (v : Word) : (s.setDmaCdtSize v).irq1En = s.irq1En := rfl
@[simp] theorem setDmaCdtSize_irq1Stat (v : Word) : (s.setDmaCdtSize v).irq1Stat = s.irq1Stat := rfl
@[simp] theorem setDmaCdtSize_dmaPtr (v : Word) : (s.setDmaCdtSize v).dmaPtr = s.dmaPtr := rfl
@[simp] theorem setDmaCdtSize_dmaCdtPtr (v : Word) : (s.setDmaCdtSize v).dmaCdtPtr = s.dmaCdtPtr := rfl
@[simp] theorem setDmaCdtSize_dmaCdtSize (v : Word) : (s.setDmaCdtSize v).dmaCdtSize = v := rfl
@[simp] theorem setDmaCdtSize_pool (v : Word) : (s.setDmaCdtSize v).pool = s.pool := rfl
@[simp] theorem setDmaCdtSize_cdtBuilt (v : Word) : (s.setDmaCdtSize v).cdtBuilt = s.cdtBuilt := rfl
@[simp] theorem setDmaCdtSize_progBuilt (v : Word) : (s.setDmaCdtSize v).progBuilt = s.progBuilt := rfl
@[simp] theorem setDmaCdtSize_sess (v : Word) : (s.setDmaCdtSize v).sess = s.sess := rfl
@[simp] theorem setDmaCdtSize_startPage (v : Word) : (s.setDmaCdtSize v).startPage = s.startPage := rfl
@[simp] theorem setDmaCdtSize_pos (v : Word) : (s.setDmaCdtSize v).pos = s.pos := rfl
@[simp] theorem setDmaCdtSize_dataReady (v : Word) : (s.setDmaCdtSize v).dataReady = s.dataReady := rfl
@[simp] theorem setDmaCdtSize_rdCtx (v : Word) : (s.setDmaCdtSize v).rdCtx = s.rdCtx := rfl
@[simp] theorem setDmaCdtSize_synced (v : Word) : (s.setDmaCdtSize v).synced = s.synced := rfl
@[simp] theorem setDmaCdtSize_sink (v : Word) : (s.setDmaCdtSize v).sink = s.sink := rfl
@[simp] theorem setDmaCdtSize_results (v : Word) : (s.setDmaCdtSize v).results = s.results := rfl
@[simp] theorem setDmaCdtSize_regReads (v : Word) : (s.setDmaCdtSize v).regReads = s.regReads := rfl
@[simp] theorem setDmaCdtSize_agenda (v : Word) : (s.setDmaCdtSize v).agenda = s.agenda := rfl
@[simp] theorem setDmaCdtSize_draws (v : Word) : (s.setDmaCdtSize v).draws = s.draws := rfl

@[simp] theorem setPool_par (v : Pool) : (s.setPool v).par = s.par := rfl
@[simp] theorem setPool_mem (v : Pool) : (s.setPool v).mem = s.mem := rfl
@[simp] theorem setPool_engRun (v : Pool) : (s.setPool v).engRun = s.engRun := rfl
@[simp] theorem setPool_epc (v : Pool) : (s.setPool v).epc = s.epc := rfl
@[simp] theorem setPool_engPhase (v : Pool) : (s.setPool v).engPhase = s.engPhase := rfl
@[simp] theorem setPool_gpcnt (v : Pool) : (s.setPool v).gpcnt = s.gpcnt := rfl
@[simp] theorem setPool_vidEn (v : Pool) : (s.setPool v).vidEn = s.vidEn := rfl
@[simp] theorem setPool_irq1En (v : Pool) : (s.setPool v).irq1En = s.irq1En := rfl
@[simp] theorem setPool_irq1Stat (v : Pool) : (s.setPool v).irq1Stat = s.irq1Stat := rfl
@[simp] theorem setPool_dmaPtr (v : Pool) : (s.setPool v).dmaPtr = s.dmaPtr := rfl
@[simp] theorem setPool_dmaCdtPtr (v : Pool) : (s.setPool v).dmaCdtPtr = s.dmaCdtPtr := rfl
@[simp] theorem setPool_dmaCdtSize (v : Pool) : (s.setPool v).dmaCdtSize = s.dmaCdtSize := rfl
@[simp] theorem setPool_pool (v : Pool) : (s.setPool v).pool = v := rfl
@[simp] theorem setPool_cdtBuilt (v : Pool) : (s.setPool v).cdtBuilt = s.cdtBuilt := rfl
@[simp] theorem setPool_progBuilt (v : Pool) : (s.setPool v).progBuilt = s.progBuilt := rfl
@[simp] theorem setPool_sess (v : Pool) : (s.setPool v).sess = s.sess := rfl
@[simp] theorem setPool_startPage (v : Pool) : (s.setPool v).startPage = s.startPage := rfl
@[simp] theorem setPool_pos (v : Pool) : (s.setPool v).pos = s.pos := rfl
@[simp] theorem setPool_dataReady (v : Pool) : (s.setPool v).dataReady = s.dataReady := rfl
@[simp] theorem setPool_rdCtx (v : Pool) : (s.setPool v).rdCtx = s.rdCtx := rfl
@[simp] theorem setPool_synced (v : Pool) : (s.setPool v).synced = s.synced := rfl
@[simp] theorem setPool_sink (v : Pool) : (s.setPool v).sink = s.sink := rfl
@[simp] theorem setPool_results (v : Pool) : (s.setPool v).results = s.results := rfl
@[simp] theorem setPool_regReads (v : Pool) : (s.setPool v).regReads = s.regReads := rfl
@[simp] theorem setPool_agenda (v : Pool) : (s.setPool v).agenda = s.agenda := rfl
@[simp] theorem setPool_draws (v : Pool) : (s.setPool v).draws = s.draws := rfl

@[simp] theorem setCdtBuilt_par (v : Bool) : (s.setCdtBuilt v).par = s.par := rfl
@[simp] theorem setCdtBuilt_mem (v : Bool) : (s.setCdtBuilt v).mem = s.mem := rfl
@[simp] theorem setCdtBuilt_engRun (v : Bool) : (s.setCdtBuilt v).engRun = s.engRun := rfl
@[simp] theorem setCdtBuilt_epc (v : Bool) : (s.setCdtBuilt v).epc = s.epc := rfl
@[simp] theorem setCdtBuilt_engPhase (v : Bool) : (s.setCdtBuilt v).engPhase = s.engPhase := rfl
@[simp] theorem setCdtBuilt_gpcnt (v : Bool) : (s.setCdtBuilt v).gpcnt = s.gpcnt := rfl
@[simp] theorem setCdtBuilt_vidEn (v : Bool) : (s.setCdtBuilt v).vidEn = s.vidEn := rfl
@[simp] theorem setCdtBuilt_irq1En (v : Bool) : (s.setCdtBuilt v).irq1En = s.irq1En := rfl
@[simp] theorem setCdtBuilt_irq1Stat (v : Bool) : (s.setCdtBuilt v).irq1Stat = s.irq1Stat := rfl
@[simp] theorem setCdtBuilt_dmaPtr (v : Bool) : (s.setCdtBuilt v).dmaPtr = s.dmaPtr := rfl
@[simp] theorem setCdtBuilt_dmaCdtPtr (v : Bool) : (s.setCdtBuilt v).dmaCdtPtr = s.dmaCdtPtr := rfl
@[simp] theorem setCdtBuilt_dmaCdtSize (v : Bool) : (s.setCdtBuilt v).dmaCdtSize = s.dmaCdtSize := rfl
@[simp] theorem setCdtBuilt_pool (v : Bool) : (s.setCdtBuilt v).pool = s.pool := rfl
@[simp] theorem setCdtBuilt_cdtBuilt (v : Bool) : (s.setCdtBuilt v).cdtBuilt = v := rfl
@[simp] theorem setCdtBuilt_progBuilt (v : Bool) : (s.setCdtBuilt v).progBuilt = s.progBuilt := rfl
@[simp] theorem setCdtBuilt_sess (v : Bool) : (s.setCdtBuilt v).sess = s.sess := rfl
@[simp] theorem setCdtBuilt_startPage (v : Bool) : (s.setCdtBuilt v).startPage = s.startPage := rfl
@[simp] theorem setCdtBuilt_pos (v : Bool) : (s.setCdtBuilt v).pos = s.pos := rfl
@[simp] theorem setCdtBuilt_dataReady (v : Bool) : (s.setCdtBuilt v).dataReady = s.dataReady := rfl
@[simp] theorem setCdtBuilt_rdCtx (v : Bool) : (s.setCdtBuilt v).rdCtx = s.rdCtx := rfl
@[simp] theorem setCdtBuilt_synced (v : Bool) : (s.setCdtBuilt v).synced = s.synced := rfl
@[simp] theorem setCdtBuilt_sink (v : Bool) : (s.setCdtBuilt v).sink = s.sink := rfl
@[simp] theorem setCdtBuilt_results (v : Bool) : (s.setCdtBuilt v).results = s.results := rfl
@[simp] theorem setCdtBuilt_regReads (v : Bool) : (s.setCdtBuilt v).regReads = s.regReads := rfl
@[simp] theorem setCdtBuilt_agenda (v : Bool) : (s.setCdtBuilt v).agenda = s.agenda := rfl
@[simp] theorem setCdtBuilt_draws (v : Bool) : (s.setCdtBuilt v).draws = s.draws := rfl

@[simp] theorem setProgBuilt_par (v : Bool) : (s.setProgBuilt v).par = s.par := rfl
@[simp] theorem setProgBuilt_mem (v : Bool) : (s.setProgBuilt v).mem = s.mem := rfl
@[simp] theorem setProgBuilt_engRun (v : Bool) : (s.setProgBuilt v).engRun = s.engRun := rfl
@[simp] theorem setProgBuilt_epc (v : Bool) : (s.setProgBuilt v).epc = s.epc := rfl
@[simp] theorem setProgBuilt_engPhase (v : Bool) : (s.setProgBuilt v).engPhase = s.engPhase := rfl
@[simp] theorem setProgBuilt_gpcnt (v : Bool) : (s.setProgBuilt v).gpcnt = s.gpcnt := rfl
@[simp] theorem setProgBuilt_vidEn (v : Bool) : (s.setProgBuilt v).vidEn = s.vidEn := rfl
@[simp] theorem setProgBuilt_irq1En (v : Bool) : (s.setProgBuilt v).irq1En = s.irq1En := rfl
@[simp] theorem setProgBuilt_irq1Stat (v : Bool) : (s.setProgBuilt v).irq1Stat = s.irq1Stat := rfl
@[simp] theorem setProgBuilt_dmaPtr (v : Bool) : (s.setProgBuilt v).dmaPtr = s.dmaPtr := rfl
@[simp] theorem setProgBuilt_dmaCdtPtr (v : Bool) : (s.setProgBuilt v).dmaCdtPtr = s.dmaCdtPtr := rfl
@[simp] theorem setProgBuilt_dmaCdtSize (v : Bool) : (s.setProgBuilt v).dmaCdtSize = s.dmaCdtSize := rfl
@[simp] theorem setProgBuilt_pool (v : Bool) : (s.setProgBuilt v).pool = s.pool := rfl
@[simp] theorem setProgBuilt_cdtBuilt (v : Bool) : (s.setProgBuilt v).cdtBuilt = s.cdtBuilt := rfl
@[simp] theorem setProgBuilt_progBuilt (v : Bool) : (s.setProgBuilt v).progBuilt = v := rfl
@[simp] theorem setProgBuilt_sess (v : Bool) : (s.setProgBuilt v).sess = s.sess := rfl
@[simp] theorem setProgBuilt_startPage (v : Bool) : (s.setProgBuilt v).startPage = s.startPage := rfl
@[simp] theorem setProgBuilt_pos (v : Bool) : (s.setProgBuilt v).pos = s.pos := rfl
@[simp] theorem setProgBuilt_dataReady (v : Bool) : (s.setProgBuilt v).dataReady = s.dataReady := rfl
@[simp] theorem setProgBuilt_rdCtx (v : Bool) : (s.setProgBuilt v).rdCtx = s.rdCtx := rfl
@[simp] theorem setProgBuilt_synced (v : Bool) : (s.setProgBuilt v).synced = s.synced := rfl
@[simp] theorem setProgBuilt_sink (v : Bool) : (s.setProgBuilt v).sink = s.sink := rfl
@[simp] theorem setProgBuilt_results (v : Bool) : (s.setProgBuilt v).results = s.results := rfl
@[simp] theorem setProgBuilt_regReads (v : Bool) : (s.setProgBuilt v).regReads = s.regReads := rfl
@[simp] theorem setProgBuilt_agenda (v : Bool) : (s.setProgBuilt v).agenda = s.agenda := rfl
@[simp] theorem setProgBuilt_draws (v : Bool) : (s.setProgBuilt v).draws = s.draws := rfl

@[simp] theorem setSess_par (v : Session) : (s.setSess v).par = s.par := rfl
@[simp] theorem setSess_mem (v : Session) : (s.setSess v).mem = s.mem := rfl
@[simp] theorem setSess_engRun (v : Session) : (s.setSess v).engRun = s.engRun := rfl
@[simp] theorem setSess_epc (v : Session) : (s.setSess v).epc = s.epc := rfl
@[simp] theorem setSess_engPhase (v : Session) : (s.setSess v).engPhase = s.engPhase := rfl
@[simp] theorem setSess_gpcnt (v : Session) : (s.setSess v).gpcnt = s.gpcnt := rfl
@[simp] theorem setSess_vidEn (v : Session) : (s.setSess v).vidEn = s.vidEn := rfl
@[simp] theorem setSess_irq1En (v : Session) : (s.setSess v).irq1En = s.irq1En := rfl
@[simp] theorem setSess_irq1Stat (v : Session) : (s.setSess v).irq1Stat = s.irq1Stat := rfl
@[simp] theorem setSess_dmaPtr (v : Session) : (s.setSess v).dmaPtr = s.dmaPtr := rfl
@[simp] theorem setSess_dmaCdtPtr (v : Session) : (s.setSess v).dmaCdtPtr = s.dmaCdtPtr := rfl
@[simp] theorem setSess_dmaCdtSize (v : Session) : (s.setSess v).dmaCdtSize = s.dmaCdtSize := rfl
@[simp] theorem setSess_pool (v : Session) : (s.setSess v).pool = s.pool := rfl
@[simp] theorem setSess_cdtBuilt (v : Session) : (s.setSess v).cdtBuilt = s.cdtBuilt := rfl
@[simp] theorem setSess_progBuilt (v : Session) : (s.setSess v).progBuilt = s.progBuilt := rfl
@[simp] theorem setSess_sess (v : Session) : (s.setSess v).sess = v := rfl
@[simp] theorem setSess_startPage (v : Session) : (s.setSess v).startPage = s.startPage := rfl
@[simp] theorem setSess_pos (v : Session) : (s.setSess v).pos = s.pos := rfl
@[simp] theorem setSess_dataReady (v : Session) : (s.setSess v).dataReady = s.dataReady := rfl
@[simp] theorem setSess_rdCtx (v : Session) : (s.setSess v).rdCtx = s.rdCtx := rfl
@[simp] theorem setSess_synced (v : Session) : (s.setSess v).synced = s.synced := rfl
@[simp] theorem setSess_sink (v : Session) : (s.setSess v).sink = s.sink := rfl
@[simp] theorem setSess_results (v : Session) : (s.setSess v).results = s.results := rfl
@[simp] theorem setSess_regReads (v : Session) : (s.setSess v).regReads = s.regReads := rfl
@[simp] theorem setSess_agenda (v : Session) : (s.setSess v).agenda = s.agenda := rfl
@[simp] theorem setSess_draws (v : Session) : (s.setSess v).draws = s.draws := rfl

@[simp] theorem setStartPage_par (v : Nat) : (s.setStartPage v).par = s.par := rfl
@[simp] theorem setStartPage_mem (v : Nat) : (s.setStartPage v).mem = s.mem := rfl
@[simp] theorem setStartPage_engRun (v : Nat) : (s.setStartPage v).engRun = s.engRun := rfl
@[simp] theorem setStartPage_epc (v : Nat) : (s.setStartPage v).epc = s.epc := rfl
@[simp] theorem setStartPage_engPhase (v : Nat) : (s.setStartPage v).engPhase = s.engPhase := rfl
@[simp] theorem setStartPage_gpcnt (v : Nat) : (s.setStartPage v).gpcnt = s.gpcnt := rfl
@[simp] theorem setStartPage_vidEn (v : Nat) : (s.setStartPage v).vidEn = s.vidEn := rfl
@[simp] theorem setStartPage_irq1En (v : Nat) : (s.setStartPage v).irq1En = s.irq1En := rfl
@[simp] theorem setStartPage_irq1Stat (v : Nat) : (s.setStartPage v).irq1Stat = s.irq1Stat := rfl
@[simp] theorem setStartPage_dmaPtr (v : Nat) : (s.setStartPage v).dmaPtr = s.dmaPtr := rfl
@[simp] theorem setStartPage_dmaCdtPtr (v : Nat) : (s.setStartPage v).dmaCdtPtr = s.dmaCdtPtr := rfl
@[simp] theorem setStartPage_dmaCdtSize (v : Nat) : (s.setStartPage v).dmaCdtSize = s.dmaCdtSize := rfl
@[simp] theorem setStartPage_pool (v : Nat) : (s.setStartPage v).pool = s.pool := rfl
@[simp] theorem setStartPage_cdtBuilt (v : Nat) : (s.setStartPage v).cdtBuilt = s.cdtBuilt := rfl
@[simp] theorem setStartPage_progBuilt (v : Nat) : (s.setStartPage v).progBuilt = s.progBuilt := rfl
@[simp] theorem setStartPage_sess (v : Nat) : (s.setStartPage v).sess = s.sess := rfl
@[simp] theorem setStartPage_startPage (v : Nat) : (s.setStartPage v).startPage = v := rfl
@[simp] theorem setStartPage_pos (v : Nat) : (s.setStartPage v).pos = s.pos := rfl
@[simp] theorem setStartPage_dataReady (v : Nat) : (s.setStartPage v).dataReady = s.dataReady := rfl
@[simp] theorem setStartPage_rdCtx (v : Nat) : (s.setStartPage v).rdCtx = s.rdCtx := rfl
@[simp] theorem setStartPage_synced (v : Nat) : (s.setStartPage v).synced = s.synced := rfl
@[simp] theorem setStartPage_sink (v : Nat) : (s.setStartPage v).sink = s.sink := rfl
@[simp] theorem setStartPage_results (v : Nat) : (s.setStartPage v).results = s.results := rfl
@[simp] theorem setStartPage_regReads (v : Nat) : (s.setStartPage v).regReads = s.regReads := rfl
@[simp] theorem setStartPage_agenda (v : Nat) : (s.setStartPage v).agenda = s.agenda := rfl
@[simp] theorem setStartPage_draws (v : Nat) : (s.setStartPage v).draws = s.draws := rfl

@[simp] theorem setPos_par (v : DWord) : (s.setPos v).par = s.par := rfl
@[simp] theorem setPos_mem (v : DWord) : (s.setPos v).mem = s.mem := rfl
@[simp] theorem setPos_engRun (v : DWord) : (s.setPos v).engRun = s.engRun := rfl
@[simp] theorem setPos_epc (v : DWord) : (s.setPos v).epc = s.epc := rfl
@[simp] theorem setPos_engPhase (v : DWord) : (s.setPos v).engPhase = s.engPhase := rfl
@[simp] theorem setPos_gpcnt (v : DWord) : (s.setPos v).gpcnt = s.gpcnt := rfl
@[simp] theorem setPos_vidEn (v : DWord) : (s.setPos v).vidEn = s.vidEn := rfl
@[simp] theorem setPos_irq1En (v : DWord) : (s.setPos v).irq1En = s.irq1En := rfl
@[simp] theorem setPos_irq1Stat (v : DWord) : (s.setPos v).irq1Stat = s.irq1Stat := rfl
@[simp] theorem setPos_dmaPtr (v : DWord) : (s.setPos v).dmaPtr = s.dmaPtr := rfl
@[simp] theorem setPos_dmaCdtPtr (v : DWord) : (s.setPos v).dmaCdtPtr = s.dmaCdtPtr := rfl
@[simp] theorem setPos_dmaCdtSize (v : DWord) : (s.setPos v).dmaCdtSize = s.dmaCdtSize := rfl
@[simp] theorem setPos_pool (v : DWord) : (s.setPos v).pool = s.pool := rfl
@[simp] theorem setPos_cdtBuilt (v : DWord) : (s.setPos v).cdtBuilt = s.cdtBuilt := rfl
@[simp] theorem setPos_progBuilt (v : DWord) : (s.setPos v).progBuilt = s.progBuilt := rfl
@[simp] theorem setPos_sess (v : DWord) : (s.setPos v).sess = s.sess := rfl
@[simp] theorem setPos_startPage (v : DWord) : (s.setPos v).startPage = s.startPage := rfl
@[simp] theorem setPos_pos (v : DWord) : (s.setPos v).pos = v := rfl
@[simp] theorem setPos_dataReady (v : DWord) : (s.setPos v).dataReady = s.dataReady := rfl
@[simp] theorem setPos_rdCtx (v : DWord) : (s.setPos v).rdCtx = s.rdCtx := rfl
@[simp] theorem setPos_synced (v : DWord) : (s.setPos v).synced = s.synced := rfl
@[simp] theorem setPos_sink (v : DWord) : (s.setPos v).sink = s.sink := rfl
@[simp] theorem setPos_results (v : DWord) : (s.setPos v).results = s.results := rfl
@[simp] theorem setPos_regReads (v : DWord) : (s.setPos v).regReads = s.regReads := rfl
@[simp] theorem setPos_agenda (v : DWord) : (s.setPos v).agenda = s.agenda := rfl
@[simp] theorem setPos_draws (v : DWord) : (s.setPos v).draws = s.draws := rfl

@[simp] theorem setDataReady_par (v : Bool) : (s.setDataReady v).par = s.par := rfl
@[simp] theorem setDataReady_mem (v : Bool) : (s.setDataReady v).mem = s.mem := rfl
@[simp] theorem setDataReady_engRun (v : Bool) : (s.setDataReady v).engRun = s.engRun := rfl
@[simp] theorem setDataReady_epc (v : Bool) : (s.setDataReady v).epc = s.epc := rfl
@[simp] theorem setDataReady_engPhase (v : Bool) : (s.setDataReady v).engPhase = s.engPhase := rfl
@[simp] theorem setDataReady_gpcnt (v : Bool) : (s.setDataReady v).gpcnt = s.gpcnt := rfl
@[simp] theorem setDataReady_vidEn (v : Bool) : (s.setDataReady v).vidEn = s.vidEn := rfl
@[simp] theorem setDataReady_irq1En (v : Bool) : (s.setDataReady v).irq1En = s.irq1En := rfl
@[simp] theorem setDataReady_irq1Stat (v : Bool) : (s.setDataReady v).irq1Stat = s.irq1Stat := rfl
@[simp] theorem setDataReady_dmaPtr (v : Bool) : (s.setDataReady v).dmaPtr = s.dmaPtr := rfl
@[simp] theorem setDataReady_dmaCdtPtr (v : Bool) : (s.setDataReady v).dmaCdtPtr = s.dmaCdtPtr := rfl
@[simp] theorem setDataReady_dmaCdtSize (v : Bool) : (s.setDataReady v).dmaCdtSize = s.dmaCdtSize := rfl
@[simp] theorem setDataReady_pool (v : Bool) : (s.setDataReady v).pool = s.pool := rfl
@[simp] theorem setDataReady_cdtBuilt (v : Bool) : (s.setDataReady v).cdtBuilt = s.cdtBuilt := rfl
@[simp] theorem setDataReady_progBuilt (v : Bool) : (s.setDataReady v).progBuilt = s.progBuilt := rfl
@[simp] theorem setDataReady_sess (v : Bool) : (s.setDataReady v).sess = s.sess := rfl
@[simp] theorem setDataReady_startPage (v : Bool) : (s.setDataReady v).startPage = s.startPage := rfl
@[simp] theorem setDataReady_pos (v : Bool) : (s.setDataReady v).pos = s.pos := rfl
@[simp] theorem setDataReady_dataReady (v : Bool) : (s.setDataReady v).dataReady = v := rfl
@[simp] theorem setDataReady_rdCtx (v : Bool) : (s.setDataReady v).rdCtx = s.rdCtx := rfl
@[simp] theorem setDataReady_synced (v : Bool) : (s.setDataReady v).synced = s.synced := rfl
@[simp] theorem setDataReady_sink (v : Bool) : (s.setDataReady v).sink = s.sink := rfl
@[simp] theorem setDataReady_results (v : Bool) : (s.setDataReady v).results = s.results := rfl
@[simp] theorem setDataReady_regReads (v : Bool) : (s.setDataReady v).regReads = s.regReads := rfl
@[simp] theorem setDataReady_agenda (v : Bool) : (s.setDataReady v).agenda = s.agenda := rfl
@[simp] theorem setDataReady_draws (v : Bool) : (s.setDataReady v).draws = s.draws := rfl

@[simp] theorem setRdCtx_par (v : Option ReadCtx) : (s.setRdCtx v).par = s.par := rfl
@[simp] theorem setRdCtx_mem (v : Option ReadCtx) : (s.setRdCtx v).mem = s.mem := rfl
@[simp] theorem setRdCtx_engRun (v : Option ReadCtx) : (s.setRdCtx v).engRun = s.engRun := rfl
@[simp] theorem setRdCtx_epc (v : Option ReadCtx) : (s.setRdCtx v).epc = s.epc := rfl
@[simp] theorem setRdCtx_engPhase (v : Option ReadCtx) : (s.setRdCtx v).engPhase = s.engPhase := rfl
@[simp] theorem setRdCtx_gpcnt (v : Option ReadCtx) : (s.setRdCtx v).gpcnt = s.gpcnt := rfl
@[simp] theorem setRdCtx_vidEn (v : Option ReadCtx) : (s.setRdCtx v).vidEn = s.vidEn := rfl
@[simp] theorem setRdCtx_irq1En (v : Option ReadCtx) : (s.setRdCtx v).irq1En = s.irq1En := rfl
@[simp] theorem setRdCtx_irq1Stat (v : Option ReadCtx) : (s.setRdCtx v).irq1Stat = s.irq1Stat := rfl
@[simp] theorem setRdCtx_dmaPtr (v : Option ReadCtx) : (s.setRdCtx v).dmaPtr = s.dmaPtr := rfl
@[simp] theorem setRdCtx_dmaCdtPtr (v : Option ReadCtx) : (s.setRdCtx v).dmaCdtPtr = s.dmaCdtPtr := rfl
@[simp] theorem setRdCtx_dmaCdtSize (v : Option ReadCtx) : (s.setRdCtx v).dmaCdtSize = s.dmaCdtSize := rfl
@[simp] theorem setRdCtx_pool (v : Option ReadCtx) : (s.setRdCtx v).pool = s.pool := rfl
@[simp] theorem setRdCtx_cdtBuilt (v : Option ReadCtx) : (s.setRdCtx v).cdtBuilt = s.cdtBuilt := rfl
@[simp] theorem setRdCtx_progBuilt (v : Option ReadCtx) : (s.setRdCtx v).progBuilt = s.progBuilt := rfl
@[simp] theorem setRdCtx_sess (v : Option ReadCtx) : (s.setRdCtx v).sess = s.sess := rfl
@[simp] theorem setRdCtx_startPage (v : Option ReadCtx) : (s.setRdCtx v).startPage = s.startPage := rfl
@[simp] theorem setRdCtx_pos (v : Option ReadCtx) : (s.setRdCtx v).pos = s.pos := rfl
@[simp] theorem setRdCtx_dataReady (v : Option ReadCtx) : (s.setRdCtx v).dataReady = s.dataReady := rfl
@[simp] theorem setRdCtx_rdCtx (v : Option ReadCtx) : (s.setRdCtx v).rdCtx = v := rfl
@[simp] theorem setRdCtx_synced (v : Option ReadCtx) : (s.setRdCtx v).synced = s.synced := rfl
@[simp] theorem setRdCtx_sink (v : Option ReadCtx) : (s.setRdCtx v).sink = s.sink := rfl
@[simp] theorem setRdCtx_results (v : Option ReadCtx) : (s.setRdCtx v).results = s.results := rfl
@[simp] theorem setRdCtx_regReads (v : Option ReadCtx) : (s.setRdCtx v).regReads = s.regReads := rfl
@[simp] theorem setRdCtx_agenda (v : Option ReadCtx) : (s.setRdCtx v).agenda = s.agenda := rfl
@[simp] theorem setRdCtx_draws (v : Option ReadCtx) : (s.setRdCtx v).draws = s.draws := rfl

@[simp] theorem setSynced_par (v : Bool) : (s.setSynced v).par = s.par := rfl
@[simp] theorem setSynced_mem (v : Bool) : (s.setSynced v).mem = s.mem := rfl
@[simp] theorem setSynced_engRun (v : Bool) : (s.setSynced v).engRun = s.engRun := rfl
@[simp] theorem setSynced_epc (v : Bool) : (s.setSynced v).epc = s.epc := rfl
@[simp] theorem setSynced_engPhase (v : Bool) : (s.setSynced v).engPhase = s.engPhase := rfl
@[simp] theorem setSynced_gpcnt (v : Bool) : (s.setSynced v).gpcnt = s.gpcnt := rfl
@[simp] theorem setSynced_vidEn (v : Bool) : (s.setSynced v).vidEn = s.vidEn := rfl
@[simp] theorem setSynced_irq1En (v : Bool) : (s.setSynced v).irq1En = s.irq1En := rfl
@[simp] theorem setSynced_irq1Stat (v : Bool) : (s.setSynced v).irq1Stat = s.irq1Stat := rfl
@[simp] theorem setSynced_dmaPtr (v : Bool) : (s.setSynced v).dmaPtr = s.dmaPtr := rfl
@[simp] theorem setSynced_dmaCdtPtr (v : Bool) : (s.setSynced v).dmaCdtPtr = s.dmaCdtPtr := rfl
@[simp] theorem setSynced_dmaCdtSize (v : Bool) : (s.setSynced v).dmaCdtSize = s.dmaCdtSize := rfl
@[simp] theorem setSynced_pool (v : Bool) : (s.setSynced v).pool = s.pool := rfl
@[simp] theorem setSynced_cdtBuilt (v : Bool) : (s.setSynced v).cdtBuilt = s.cdtBuilt := rfl
@[simp] theorem setSynced_progBuilt (v : Bool) : (s.setSynced v).progBuilt = s.progBuilt := rfl
@[simp] theorem setSynced_sess (v : Bool) : (s.setSynced v).sess = s.sess := rfl
@[simp] theorem setSynced_startPage (v : Bool) : (s.setSynced v).startPage = s.startPage := rfl
@[simp] theorem setSynced_pos (v : Bool) : (s.setSynced v).pos = s.pos := rfl
@[simp] theorem setSynced_dataReady (v : Bool) : (s.setSynced v).dataReady = s.dataReady := rfl
@[simp] theorem setSynced_rdCtx (v : Bool) : (s.setSynced v).rdCtx = s.rdCtx := rfl
@[simp] theorem setSynced_synced (v : Bool) : (s.setSynced v).synced = v := rfl
@[simp] theorem setSynced_sink (v : Bool) : (s.setSynced v).sink = s.sink := rfl
@[simp] theorem setSynced_results (v : Bool) : (s.setSynced v).results = s.results := rfl
@[simp] theorem setSynced_regReads (v : Bool) : (s.setSynced v).regReads = s.regReads := rfl
@[simp] theorem setSynced_agenda (v : Bool) : (s.setSynced v).agenda = s.agenda := rfl
@[simp] theorem setSynced_draws (v : Bool) : (s.setSynced v).draws = s.draws := rfl

@[simp] theorem setSink_par (v : List Byte) : (s.setSink v).par = s.par := rfl
@[simp] theorem setSink_mem (v : List Byte) : (s.setSink v).mem = s.mem := rfl
@[simp] theorem setSink_engRun (v : List Byte) : (s.setSink v).engRun = s.engRun := rfl
@[simp] theorem setSink_epc (v : List Byte) : (s.setSink v).epc = s.epc := rfl
@[simp] theorem setSink_engPhase (v : List Byte) : (s.setSink v).engPhase = s.engPhase := rfl
@[simp] theorem setSink_gpcnt (v : List Byte) : (s.setSink v).gpcnt = s.gpcnt := rfl
@[simp] theorem setSink_vidEn (v : List Byte) : (s.setSink v).vidEn = s.vidEn := rfl
@[simp] theorem setSink_irq1En (v : List Byte) : (s.setSink v).irq1En = s.irq1En := rfl
@[simp] theorem setSink_irq1Stat (v : List Byte) : (s.setSink v).irq1Stat = s.irq1Stat := rfl
@[simp] theorem setSink_dmaPtr (v : List Byte) : (s.setSink v).dmaPtr = s.dmaPtr := rfl
@[simp] theorem setSink_dmaCdtPtr (v : List Byte) : (s.setSink v).dmaCdtPtr = s.dmaCdtPtr := rfl
@[simp] theorem setSink_dmaCdtSize (v : List Byte) : (s.setSink v).dmaCdtSize = s.dmaCdtSize := rfl
@[simp] theorem setSink_pool (v : List Byte) : (s.setSink v).pool = s.pool := rfl
@[simp] theorem setSink_cdtBuilt (v : List Byte) : (s.setSink v).cdtBuilt = s.cdtBuilt := rfl
@[simp] theorem setSink_progBuilt (v : List Byte) : (s.setSink v).progBuilt = s.progBuilt := rfl
@[simp] theorem setSink_sess (v : List Byte) : (s.setSink v).sess = s.sess := rfl
@[simp] theorem setSink_startPage (v : List Byte) : (s.setSink v).startPage = s.startPage := rfl
@[simp] theorem setSink_pos (v : List Byte) : (s.setSink v).pos = s.pos := rfl
@[simp] theorem setSink_dataReady (v : List Byte) : (s.setSink v).dataReady = s.dataReady := rfl
@[simp] theorem setSink_rdCtx (v : List Byte) : (s.setSink v).rdCtx = s.rdCtx := rfl
@[simp] theorem setSink_synced (v : List Byte) : (s.setSink v).synced = s.synced := rfl
@[simp] theorem setSink_sink (v : List Byte) : (s.setSink v).sink = v := rfl
@[simp] theorem setSink_results (v : List Byte) : (s.setSink v).results = s.results := rfl
@[simp] theorem setSink_regReads (v : List Byte) : (s.setSink v).regReads = s.regReads := rfl
@[simp] theorem setSink_agenda (v : List Byte) : (s.setSink v).agenda = s.agenda := rfl
@[simp] theorem setSink_draws (v : List Byte) : (s.setSink v).draws = s.draws := rfl

@[simp] theorem setResults_par (v : List Result) : (s.setResults v).par = s.par := rfl
@[simp] theorem setResults_mem (v : List Result) : (s.setResults v).mem = s.mem := rfl
@[simp] theorem setResults_engRun (v : List Result) : (s.setResults v).engRun = s.engRun := rfl
@[simp] theorem setResults_epc (v : List Result) : (s.setResults v).epc = s.epc := rfl
@[simp] theorem setResults_engPhase (v : List Result) : (s.setResults v).engPhase = s.engPhase := rfl
@[simp] theorem setResults_gpcnt (v : List Result) : (s.setResults v).gpcnt = s.gpcnt := rfl
@[simp] theorem setResults_vidEn (v : List Result) : (s.setResults v).vidEn = s.vidEn := rfl
@[simp] theorem setResults_irq1En (v : List Result) : (s.setResults v).irq1En = s.irq1En := rfl
@[simp] theorem setResults_irq1Stat (v : List Result) : (s.setResults v).irq1Stat = s.irq1Stat := rfl
@[simp] theorem setResults_dmaPtr (v : List Result) : (s.setResults v).dmaPtr = s.dmaPtr := rfl
@[simp] theorem setResults_dmaCdtPtr (v : List Result) : (s.setResults v).dmaCdtPtr = s.dmaCdtPtr := rfl
@[simp] theorem setResults_dmaCdtSize (v : List Result) : (s.setResults v).dmaCdtSize = s.dmaCdtSize := rfl
@[simp] theorem setResults_pool (v : List Result) : (s.setResults v).pool = s.pool := rfl
@[simp] theorem setResults_cdtBuilt (v : List Result) : (s.setResults v).cdtBuilt = s.cdtBuilt := rfl
@[simp] theorem setResults_progBuilt (v : List Result) : (s.setResults v).progBuilt = s.progBuilt := rfl
@[simp] theorem setResults_sess (v : List Result) : (s.setResults v).sess = s.sess := rfl
@[simp] theorem setResults_startPage (v : List Result) : (s.setResults v).startPage = s.startPage := rfl
@[simp] theorem setResults_pos (v : List Result) : (s.setResults v).pos = s.pos := rfl
@[simp] theorem setResults_dataReady (v : List Result) : (s.setResults v).dataReady = s.dataReady := rfl
@[simp] theorem setResults_rdCtx (v : List Result) : (s.setResults v).rdCtx = s.rdCtx := rfl
@[simp] theorem setResults_synced (v : List Result) : (s.setResults v).synced = s.synced := rfl
@[simp] theorem setResults_sink (v : List Result) : (s.setResults v).sink = s.sink := rfl
@[simp] theorem setResults_results (v : List Result) : (s.setResults v).results = v := rfl
@[simp] theorem setResults_regReads (v : List Result) : (s.setResults v).regReads = s.regReads := rfl
@[simp] theorem setResults_agenda (v : List Result) : (s.setResults v).agenda = s.agenda := rfl
@[simp] theorem setResults_draws (v : List Result) : (s.setResults v).draws = s.draws := rfl

@[simp] theorem setRegReads_par (v : List Word) : (s.setRegReads v).par = s.par := rfl
@[simp] theorem setRegReads_mem (v : List Word) : (s.setRegReads v).mem = s.mem := rfl
@[simp] theorem setRegReads_engRun (v : List Word) : (s.setRegReads v).engRun = s.engRun := rfl
@[simp] theorem setRegReads_epc (v : List Word) : (s.setRegReads v).epc = s.epc := rfl
@[simp] theorem setRegReads_engPhase (v : List Word) : (s.setRegReads v).engPhase = s.engPhase := rfl
@[simp] theorem setRegReads_gpcnt (v : List Word) : (s.setRegReads v).gpcnt = s.gpcnt := rfl
@[simp] theorem setRegReads_vidEn (v : List Word) : (s.setRegReads v).vidEn = s.vidEn := rfl
@[simp] theorem setRegReads_irq1En (v : List Word) : (s.setRegReads v).irq1En = s.irq1En := rfl
@[simp] theorem setRegReads_irq1Stat (v : List Word) : (s.setRegReads v).irq1Stat = s.irq1Stat := rfl
@[simp] theorem setRegReads_dmaPtr (v : List Word) : (s.setRegReads v).dmaPtr = s.dmaPtr := rfl
@[simp] theorem setRegReads_dmaCdtPtr (v : List Word) : (s.setRegReads v).dmaCdtPtr = s.dmaCdtPtr := rfl
@[simp] theorem setRegReads_dmaCdtSize (v : List Word) : (s.setRegReads v).dmaCdtSize = s.dmaCdtSize := rfl
@[simp] theorem setRegReads_pool (v : List Word) : (s.setRegReads v).pool = s.pool := rfl
@[simp] theorem setRegReads_cdtBuilt (v : List Word) : (s.setRegReads v).cdtBuilt = s.cdtBuilt := rfl
@[simp] theorem setRegReads_progBuilt (v : List Word) : (s.setRegReads v).progBuilt = s.progBuilt := rfl
@[simp] theorem setRegReads_sess (v : List Word) : (s.setRegReads v).sess = s.sess := rfl
@[simp] theorem setRegReads_startPage (v : List Word) : (s.setRegReads v).startPage = s.startPage := rfl
@[simp] theorem setRegReads_pos (v : List Word) : (s.setRegReads v).pos = s.pos := rfl
@[simp] theorem setRegReads_dataReady (v : List Word) : (s.setRegReads v).dataReady = s.dataReady := rfl
@[simp] theorem setRegReads_rdCtx (v : List Word) : (s.setRegReads v).rdCtx = s.rdCtx := rfl
@[simp] theorem setRegReads_synced (v : List Word) : (s.setRegReads v).synced = s.synced := rfl
@[simp] theorem setRegReads_sink (v : List Word) : (s.setRegReads v).sink = s.sink := rfl
@[simp] theorem setRegReads_results (v : List Word) : (s.setRegReads v).results = s.results := rfl
@[simp] theorem setRegReads_regReads (v : List Word) : (s.setRegReads v).regReads = v := rfl
@[simp] theorem setRegReads_agenda (v : List Word) : (s.setRegReads v).agenda = s.agenda := rfl
@[simp] theorem setRegReads_draws (v : List Word) : (s.setRegReads v).draws = s.draws := rfl

@[simp] theorem setAgenda_par (v : List Turn) : (s.setAgenda v).par = s.par := rfl
@[simp] theorem setAgenda_mem (v : List Turn) : (s.setAgenda v).mem = s.mem := rfl
@[simp] theorem setAgenda_engRun (v : List Turn) : (s.setAgenda v).engRun = s.engRun := rfl
@[simp] theorem setAgenda_epc (v : List Turn) : (s.setAgenda v).epc = s.epc := rfl
@[simp] theorem setAgenda_engPhase (v : List Turn) : (s.setAgenda v).engPhase = s.engPhase := rfl
@[simp] theorem setAgenda_gpcnt (v : List Turn) : (s.setAgenda v).gpcnt = s.gpcnt := rfl
@[simp] theorem setAgenda_vidEn (v : List Turn) : (s.setAgenda v).vidEn = s.vidEn := rfl
@[simp] theorem setAgenda_irq1En (v : List Turn) : (s.setAgenda v).irq1En = s.irq1En := rfl
@[simp] theorem setAgenda_irq1Stat (v : List Turn) : (s.setAgenda v).irq1Stat = s.irq1Stat := rfl
@[simp] theorem setAgenda_dmaPtr (v : List Turn) : (s.setAgenda v).dmaPtr = s.dmaPtr := rfl
@[simp] theorem setAgenda_dmaCdtPtr (v : List Turn) : (s.setAgenda v).dmaCdtPtr = s.dmaCdtPtr := rfl
@[simp] theorem setAgenda_dmaCdtSize (v : List Turn) : (s.setAgenda v).dmaCdtSize = s.dmaCdtSize := rfl
@[simp] theorem setAgenda_pool (v : List Turn) : (s.setAgenda v).pool = s.pool := rfl
@[simp] theorem setAgenda_cdtBuilt (v : List Turn) : (s.setAgenda v).cdtBuilt = s.cdtBuilt := rfl
@[simp] theorem setAgenda_progBuilt (v : List Turn) : (s.setAgenda v).progBuilt = s.progBuilt := rfl
@[simp] theorem setAgenda_sess (v : List Turn) : (s.setAgenda v).sess = s.sess := rfl
@[simp] theorem setAgenda_startPage (v : List Turn) : (s.setAgenda v).startPage = s.startPage := rfl
@[simp] theorem setAgenda_pos (v : List Turn) : (s.setAgenda v).pos = s.pos := rfl
@[simp] theorem setAgenda_dataReady (v : List Turn) : (s.setAgenda v).dataReady = s.dataReady := rfl
@[simp] theorem setAgenda_rdCtx (v : List Turn) : (s.setAgenda v).rdCtx = s.rdCtx := rfl
@[simp] theorem setAgenda_synced (v : List Turn) : (s.setAgenda v).synced = s.synced := rfl
@[simp] theorem setAgenda_sink (v : List Turn) : (s.setAgenda v).sink = s.sink := rfl
@[simp] theorem setAgenda_results (v : List Turn) : (s.setAgenda v).results = s.results := rfl
@[simp] theorem setAgenda_regReads (v : List Turn) : (s.setAgenda v).regReads = s.regReads := rfl
@[simp] theorem setAgenda_agenda (v : List Turn) : (s.setAgenda v).agenda = v := rfl
@[simp] theorem setAgenda_draws (v : List Turn) : (s.setAgenda v).draws = s.draws := rfl

@[simp] theorem setDraws_par (v : Draws) : (s.setDraws v).par = s.par := rfl
@[simp] theorem setDraws_mem (v : Draws) : (s.setDraws v).mem = s.mem := rfl
@[simp] theorem setDraws_engRun (v : Draws) : (s.setDraws v).engRun = s.engRun := rfl
@[simp] theorem setDraws_epc (v : Draws) : (s.setDraws v).epc = s.epc := rfl
@[simp] theorem setDraws_engPhase (v : Draws) : (s.setDraws v).engPhase = s.engPhase := rfl
@[simp] theorem setDraws_gpcnt (v : Draws) : (s.setDraws v).gpcnt = s.gpcnt := rfl
@[simp] theorem setDraws_vidEn (v : Draws) : (s.setDraws v).vidEn = s.vidEn := rfl
@[simp] theorem setDraws_irq1En (v : Draws) : (s.setDraws v).irq1En = s.irq1En := rfl
@[simp] theorem setDraws_irq1Stat (v : Draws) : (s.setDraws v).irq1Stat = s.irq1Stat := rfl
@[simp] theorem setDraws_dmaPtr (v : Draws) : (s.setDraws v).dmaPtr = s.dmaPtr := rfl
@[simp] theorem setDraws_dmaCdtPtr (v : Draws) : (s.setDraws v).dmaCdtPtr = s.dmaCdtPtr := rfl
@[simp] theorem setDraws_dmaCdtSize (v : Draws) : (s.setDraws v).dmaCdtSize = s.dmaCdtSize := rfl
@[simp] theorem setDraws_pool (v : Draws) : (s.setDraws v).pool = s.pool := rfl
@[simp] theorem setDraws_cdtBuilt (v : Draws) : (s.setDraws v).cdtBuilt = s.cdtBuilt := rfl
@[simp] theorem setDraws_progBuilt (v : Draws) : (s.setDraws v).progBuilt = s.progBuilt := rfl
@[simp] theorem setDraws_sess (v : Draws) : (s.setDraws v).sess = s.sess := rfl
@[simp] theorem setDraws_startPage (v : Draws) : (s.setDraws v).startPage = s.startPage := rfl
@[simp] theorem setDraws_pos (v : Draws) : (s.setDraws v).pos = s.pos := rfl
@[simp] theorem setDraws_dataReady (v : Draws) : (s.setDraws v).dataReady = s.dataReady := rfl
@[simp] theorem setDraws_rdCtx (v : Draws) : (s.setDraws v).rdCtx = s.rdCtx := rfl
@[simp] theorem setDraws_synced (v : Draws) : (s.setDraws v).synced = s.synced := rfl
@[simp] theorem setDraws_sink (v : Draws) : (s.setDraws v).sink = s.sink := rfl
@[simp] theorem setDraws_results (v : Draws) : (s.setDraws v).results = s.results := rfl
@[simp] theorem setDraws_regReads (v : Draws) : (s.setDraws v).regReads = s.regReads := rfl
@[simp] theorem setDraws_agenda (v : Draws) : (s.setDraws v).agenda = s.agenda := rfl
@[simp] theorem setDraws_draws (v : Draws) : (s.setDraws v).draws = v := rfl

end Sys2Proof.Machine.State
end

