-- ==== Sys2Proof/Laws/Ops.lean ====
section
/-! SUPPORT. What the shared operations do, one lemma each: the draws, the register window, starting and stopping the
engine, the counter control, the fetch. -/

namespace Sys2Proof.Machine

open Sys2Proof

/-! ## Draws change the draws only -/

theorem State.afterFree_eq (s : State) :
    s.afterFree = { s with draws := { s.draws with taken := s.draws.taken + 1 } } := rfl

theorem State.afterSample_eq (s : State) :
    s.afterSample = { s with draws := { s.draws with
      samples := s.draws.samples.drop 1, taken := s.draws.taken + (1 - s.draws.samples.length) } } := by
  unfold State.afterSample
  split
  next h => simp [State.afterFree_eq, h]
  next h => simp [State.setDraws, h]

theorem State.afterAlloc_eq (s : State) :
    s.afterAlloc = { s with draws := { s.draws with
      allocs := s.draws.allocs.drop 1, taken := s.draws.taken + (1 - s.draws.allocs.length) } } := by
  unfold State.afterAlloc
  split
  next h => simp [State.afterFree_eq, h]
  next h => simp [State.setDraws, h]

theorem State.afterSink_eq (s : State) :
    s.afterSink = { s with draws := { s.draws with
      sinks := s.draws.sinks.drop 1, taken := s.draws.taken + (1 - s.draws.sinks.length) } } := by
  unfold State.afterSink
  split
  next h => simp [State.afterFree_eq, h]
  next h => simp [State.setDraws, h]

@[simp] theorem State.spoiledBytes_length (s : State) (n : Nat) : (s.spoiledBytes n).length = n := by
  simp [State.spoiledBytes]

theorem State.spoilChunk_eq (s : State) (len i : Nat) :
    s.spoilChunk len i = { s with
      sink := s.sink.take (s.sink.length - i) ++ s.spoiledBytes len,
      draws := { s.draws with taken := s.draws.taken + len } } := rfl

theorem State.fillPages_eq (s : State) :
    s.fillPages = { s with mem := fillCells s.par s.mem (s.draws.fills.head?.getD []),
                           draws := { s.draws with fills := s.draws.fills.drop 1 } } := by
  unfold State.fillPages
  split
  next h =>
    have hd : { s.draws with fills := [] } = s.draws := by rw [← h]
    simp [h, fillCells, hd]
  next h => simp [h, State.setMem, State.setDraws]

theorem State.landSample_eq (s : State) (a : Nat) :
    s.landSample a = { s with mem := s.mem.write a s.nextSample, draws := s.afterSample.draws } := by
  simp [State.landSample, State.afterSample_eq, State.setMem]

/-! ## Starting and stopping the engine -/

theorem State.writeDmaEn_start {s : State} (h : s.engRun = .stopped) :
    s.writeDmaEn true = { s with epc := s.dmaPtr, engPhase := .atFetch, engRun := .running } := by
  simp [State.writeDmaEn, h, State.setEpc, State.setEngPhase, State.setEngRun]

theorem State.writeDmaEn_stop {s : State} (h : s.engRun = .running) :
    s.writeDmaEn false = { s with engPhase := .atFetch, engRun := .stopped } := by
  simp [State.writeDmaEn, h, State.setEngPhase, State.setEngRun]

/-- A write of the value `DMA_EN` has changes nothing (10_state R30). -/
theorem State.writeDmaEn_same (s : State) : s.writeDmaEn s.dmaEn = s := by
  unfold State.writeDmaEn State.dmaEn
  cases s.engRun <;> simp

/-! ## The register window -/

/-- The register found at an offset is the one with that offset. -/
theorem off_of_regAt {p : Params} {offset : Nat} {r : Reg} (h : regAt p offset = some r) : p.regOff.off r = offset := by
  simpa using List.find?_some h

/-- The field stands at its bit, whatever the bits around it read as. -/
theorem fieldAmong_getLsbD (bit : Fin 32) (v : Bool) (free : Word) : (fieldAmong bit v free).getLsbD bit.val = v := by
  cases v <;> simp [fieldAmong, bit.isLt]

/-! ## Admitted regions -/

theorem State.insidePage_iff (s : State) (a len : Nat) :
    s.insidePage a len = true ↔
      s.pool = .allocated ∧ (∃ b ∈ s.par.pageBases, b.toNat ≤ a ∧ a + len ≤ b.toNat + s.par.pageSize) ∧
        a + len ≤ addressSpace := by
  simp [State.insidePage, pageCovers]

/-- A part of a range inside a page is inside it. -/
theorem State.insidePage_part {s : State} {a len a' len' : Nat} (h : s.insidePage a len = true) (ha : a ≤ a')
    (hl : a' + len' ≤ a + len) : s.insidePage a' len' = true := by
  rw [State.insidePage_iff] at h ⊢
  obtain ⟨hp, ⟨b, hb, h1, h2⟩, h3⟩ := h
  exact ⟨hp, ⟨b, hb, by omega, by omega⟩, by omega⟩

/-! ## The fetch -/

theorem State.fetchable_iff (s : State) (a : Nat) : s.fetchable a = true ↔ a % 4 = 0 ∧ s.insideProgram a 4 = true := by
  simp [State.fetchable]

theorem State.fetchWordBytes_of_fetchable {s : State} {a : Nat} (h : s.fetchable a = true) :
    s.fetchWordBytes a = [s.mem.read a, s.mem.read (a + 1), s.mem.read (a + 2), s.mem.read (a + 3)] := by
  simp [State.fetchWordBytes, h]

/-- The control word at `epc` is the first word of what the engine reads. -/
theorem State.takeWord_fetchBytes {s : State} (h : s.fetchable s.epc.toNat = true) :
    takeWord s.fetchBytes = some (s.mem.readWord s.epc.toNat, s.fetchWordBytes (s.epc + 4#32).toNat) := by
  simp [State.fetchBytes, State.fetchWordBytes_of_fetchable h, takeWord, Memory.readWord]

/-- The second word, where the engine may fetch it. -/
theorem State.takeWord_fetchWordBytes {s : State} {a : Nat} (h : s.fetchable a = true) :
    takeWord (s.fetchWordBytes a) = some (s.mem.readWord a, []) := by
  simp [State.fetchWordBytes_of_fetchable h, takeWord, Memory.readWord]

end Sys2Proof.Machine
end

