-- ==== Sys2Proof/Laws/PerInstr.lean ====
section
/-! SUPPORT. Facts about every instruction as syntax, one lemma per constructor. -/

namespace Sys2Proof.Laws

/-- The encoding has the instruction's length (30_encoding R58, R59, R60). -/
def EncodedLength.Statement (i : Instr) : Prop := (encodeBytes i).length = i.lengthBytes

theorem EncodedLength.sync (cnt : SyncCnt) : EncodedLength.Statement (.sync cnt) := rfl

theorem EncodedLength.write (sol eol irq1 : Bool) (cnt : WriteCnt) (count : BitVec 12) (dst : Word) :
    EncodedLength.Statement (.write sol eol irq1 cnt count dst) := rfl

theorem EncodedLength.jump (target : Word) : EncodedLength.Statement (.jump target) := rfl

end Sys2Proof.Laws
end

