-- ==== Sys2Proof/Laws/Step.lean ====
section
/-! SUPPORT. What a step can do, said once: the cases of the engine's and of the reader's step, and what any agent's
step does to memory. -/

namespace Sys2Proof.Machine

open Sys2Proof

/-! ## The engine -/

/-- What an instruction does when it answers a next state. -/
theorem exec_cases {i : Instr} {s t : State} (h : exec i s = .next t) :
    (i = .sync .none ∧ t = { s with epc := s.epc + 4#32 }) ∨
    (i = .sync .reset ∧ t = { s with gpcnt := 0#16, synced := true, epc := s.epc + 4#32 }) ∨
    (∃ sol eol irq1 cnt count dst, i = .write sol eol irq1 cnt count dst ∧ count ≠ 0#12 ∧
      crossesTop dst count.toNat = false ∧ s.insidePage dst.toNat count.toNat = true ∧
      t = { s with engPhase := .inWrite dst 0 count.toNat (writeWord sol eol irq1 cnt count) }) ∨
    (∃ target, i = .jump target ∧ targetAligned target = true ∧ t = { s with epc := target }) := by
  cases i with
  | sync cnt =>
    cases cnt with
    | none => injection h with h; exact .inl ⟨rfl, h.symm⟩
    | reset => injection h with h; exact .inr (.inl ⟨rfl, h.symm⟩)
  | write sol eol irq1 cnt count dst =>
    simp only [exec, execWrite] at h
    split at h
    · cases h
    next hc =>
      split at h
      · cases h
      next ht =>
        split at h
        next hp =>
          injection h with h
          exact .inr (.inr (.inl ⟨sol, eol, irq1, cnt, count, dst, rfl, hc, by simpa using ht, hp, h.symm⟩))
        · cases h
  | jump target =>
    simp only [exec, execJump] at h
    split at h
    next ha => injection h with h; exact .inr (.inr (.inr ⟨target, rfl, ha, h.symm⟩))
    · cases h

/-- What the end of a WRITE does. -/
theorem finishWrite_cases {w0 : Word} {s t : State} (h : finishWrite w0 s = .next t) :
    ∃ cnt, writeCntOfBits (fieldCnt w0) = some cnt ∧
      t = { s with gpcnt := countedGpcnt s.par.lastCnt cnt s.gpcnt, irq1Stat := s.irq1Stat || fieldIrq1 w0,
                   epc := s.epc + 8#32, engPhase := .atFetch } := by
  unfold finishWrite at h
  split at h
  · cases h
  next cnt hc => injection h with h; exact ⟨cnt, hc, h.symm⟩

/-- What a byte step of a WRITE does: the byte lands in a page, and the WRITE goes on or ends. -/
theorem writeByteStep_cases {dst : Word} {done count : Nat} {w0 : Word} {s t : State}
    (h : writeByteStep dst done count w0 s = .next t) :
    s.insidePage (dst.toNat + done) 1 = true ∧
    ((done + 1 ≠ count ∧
        t = { s with mem := s.mem.write (dst.toNat + done) s.nextSample, draws := s.afterSample.draws,
                     engPhase := .inWrite dst (done + 1) count w0 }) ∨
     (done + 1 = count ∧ ∃ cnt, writeCntOfBits (fieldCnt w0) = some cnt ∧
        t = { s with mem := s.mem.write (dst.toNat + done) s.nextSample, draws := s.afterSample.draws,
                     gpcnt := countedGpcnt s.par.lastCnt cnt s.gpcnt, irq1Stat := s.irq1Stat || fieldIrq1 w0,
                     epc := s.epc + 8#32, engPhase := .atFetch })) := by
  unfold writeByteStep at h
  split at h
  next hp =>
    refine ⟨hp, ?_⟩
    rw [State.landSample_eq] at h
    split at h
    next hd =>
      obtain ⟨cnt, hc, ht⟩ := finishWrite_cases h
      exact .inr ⟨hd, cnt, hc, ht⟩
    next hd => injection h with h; exact .inl ⟨hd, h.symm⟩
  · cases h

/-- What the engine's step does when it answers a next state. -/
theorem engineStep_cases {s t : State} (h : engineStep s = .next t) :
    (s.engRun = .stopped ∧ t = s) ∨
    (s.engRun = .running ∧ s.engPhase = .atFetch ∧
      ∃ i rest, decode s.fetchBytes = .ok (i, rest) ∧ exec i s = .next t) ∨
    (s.engRun = .running ∧ ∃ dst done count w0, s.engPhase = .inWrite dst done count w0 ∧
      writeByteStep dst done count w0 s = .next t) := by
  unfold engineStep at h
  split at h
  next hr => injection h with h; exact .inl ⟨hr, h.symm⟩
  next hr =>
    split at h
    next hp =>
      unfold fetchStep at h
      split at h
      next i rest hd => exact .inr (.inl ⟨hr, hp, i, rest, hd, h⟩)
      · cases h
      · cases h
    next dst done count w0 hp => exact .inr (.inr ⟨hr, dst, done, count, w0, hp, h⟩)

/-! ## Memory: what any agent's step does to it -/

/-- A step's change of memory: none; one byte inside a page of an allocated pool; or, with the engine stopped, the
pages' fill, the descriptor table or the program, inside the address space. -/
inductive MemChange (s : State) : Memory → Prop where
  | same : MemChange s s.mem
  | pageByte (a : Nat) (b : Byte) (h : s.insidePage a 1 = true) : MemChange s (s.mem.write a b)
  | fill (cells : List Host.Cell) (h : s.engRun = .stopped) : MemChange s (fillCells s.par s.mem cells)
  | table (h : s.engRun = .stopped) (hs : s.par.cdtBase.toNat + s.par.cdtBytes ≤ addressSpace) :
      MemChange s (s.mem.writeWords s.par.cdtBase.toNat (cdtEntries s.par))
  | program (h : s.engRun = .stopped) (hs : s.par.progBase.toNat + s.par.programBytes ≤ addressSpace)
      (hb : s.par.programBytes ≤ s.par.progBufSize) :
      MemChange s (s.mem.writeWords s.par.progBase.toNat (programWords s.par))

theorem MemChange.of_eq {s : State} {m : Memory} (h : m = s.mem) : MemChange s m := h ▸ .same

theorem engineStep_mem {s t : State} (h : engineStep s = .next t) : MemChange s t.mem := by
  obtain ⟨_, rfl⟩ | ⟨_, _, i, _, _, he⟩ | ⟨_, _, _, _, _, _, hw⟩ := engineStep_cases h
  · exact .same
  · obtain ⟨_, rfl⟩ | ⟨_, rfl⟩ | ⟨_, _, _, _, _, _, _, _, _, _, rfl⟩ | ⟨_, _, _, rfl⟩ := exec_cases he <;> exact .same
  · obtain ⟨hp, ⟨_, rfl⟩ | ⟨_, _, _, rfl⟩⟩ := writeByteStep_cases hw <;> exact .pageByte _ _ hp

theorem readableAddr_inside {s : State} {i a : Nat} (h : s.readableAddr i = some a) : s.insidePage a 1 = true := by
  unfold State.readableAddr at h
  split at h
  · cases h
  next hp => split at h <;> simp_all

theorem readerStep_mem {s t : State} (h : readerStep s = .next t) : MemChange s t.mem := by
  unfold readerStep at h
  split at h
  · injection h with h; subst h; exact .same
  next c _ =>
    split at h
    · unfold readScan at h
      split at h
      · injection h with h; subst h; exact .same
      · split at h <;> (injection h with h; subst h; exact .same)
    · unfold readCopy at h
      split at h
      · cases h
      · split at h <;> (injection h with h; subst h; exact .of_eq (by
          simp [State.afterSink_eq, State.spoilChunk_eq, State.setReadPhase, State.endRead, State.returned]))
    · unfold readZero at h
      split at h
      · cases h
      next a ha =>
        split at h <;> (injection h with h; subst h; exact .pageByte a 0#8 (readableAddr_inside ha))
    · injection h with h; subst h; exact .same
    · unfold readWaiting at h
      split at h <;> (injection h with h; subst h; exact .same)

theorem State.writeDmaEn_mem (s : State) (v : Bool) : (s.writeDmaEn v).mem = s.mem := by
  unfold State.writeDmaEn
  split <;> rfl

theorem State.storeReg_mem (s : State) (r : Reg) (v : Word) : (s.storeReg r v).mem = s.mem := by
  cases r <;> simp [State.storeReg, State.writeDmaEn_mem]

theorem State.launch_mem (s : State) : s.launch.mem = s.mem := by
  simp [State.launch, State.writeDmaEn_mem, State.storeReg_mem]

theorem start_mem {s t : State} (h : start s = .next t) : t.mem = s.mem := by
  unfold start at h
  repeat' split at h
  all_goals first
    | cases h; done
    | (injection h with h; subst h; simp [State.returned, State.launch_mem])

theorem stop_mem {s t : State} (h : stop s = .next t) : t.mem = s.mem := by
  injection h with h; subst h
  simp [State.returned, State.writeDmaEn_mem]

theorem hostRegWrite_cases {offset width : Nat} {value : Word} {s t : State}
    (h : hostRegWrite offset width value s = .next t) :
    ∃ r, regAt s.par offset = some r ∧ t = s.storeReg r value := by
  unfold hostRegWrite at h
  split at h
  · cases h
  · split at h
    · cases h
    next r hr =>
      injection h with h
      exact ⟨r, hr, h.symm⟩

theorem hostRegWrite_mem {offset width : Nat} {value : Word} {s t : State}
    (h : hostRegWrite offset width value s = .next t) : t.mem = s.mem := by
  obtain ⟨r, _, rfl⟩ := hostRegWrite_cases h
  exact State.storeReg_mem s r value

theorem commandStep_mem {c : Command} {s t : State} (h : commandStep c s = .next t) : MemChange s t.mem := by
  have hstop : ∀ {r : EngRun}, ¬ r = .running → r = .stopped := by intro r; cases r <;> simp
  cases c with
  | allocate capacity pageSize =>
    simp only [commandStep, allocate] at h
    repeat' split at h
    all_goals first
      | cases h; done
      | (injection h with h; subst h)
    · exact .same
    · exact .same
    next hr _ _ _ _ _ =>
      rw [State.fillPages_eq, State.afterAlloc_eq]
      exact .fill _ (hstop hr)
    · exact .of_eq (by rw [State.afterAlloc_eq]; rfl)
  | free =>
    simp only [commandStep, free] at h
    split at h
    · cases h
    · injection h with h; subst h; exact .same
  | buildCdt =>
    simp only [commandStep, buildCdt] at h
    repeat' split at h
    all_goals first
      | cases h; done
      | (injection h with h; subst h)
    · exact .same
    next hr _ _ hs => exact .table (hstop hr) (by omega)
  | buildProgram =>
    simp only [commandStep, buildProgram] at h
    repeat' split at h
    all_goals first
      | cases h; done
      | (injection h with h; subst h)
    · exact .same
    · exact .same
    · exact .same
    next hr _ _ hb _ hs => exact .program (hstop hr) (by omega) (by omega)
  | start => exact .of_eq (start_mem h)
  | stop => exact .of_eq (stop_mem h)
  | openSession =>
    simp only [commandStep, openSession] at h
    repeat' split at h
    all_goals first
      | cases h; done
      | (injection h with h; subst h; exact .of_eq (by simp [State.returned]))
  | read max blocking =>
    simp only [commandStep, readEntry] at h
    repeat' split at h
    all_goals first
      | cases h; done
      | (injection h with h; subst h; exact .of_eq (by simp [State.returned]))
  | close =>
    simp only [commandStep, close] at h
    split at h
    · cases h
    · injection h with h; subst h; exact .of_eq (by simp [State.returned, State.afterFree])
  | regRead offset width =>
    simp only [commandStep, hostRegRead] at h
    repeat' split at h
    all_goals first
      | cases h; done
      | (injection h with h; subst h; exact .same)
  | regWrite offset width value =>
    exact .of_eq (hostRegWrite_mem h)

/-- What any agent's step does to memory. -/
theorem turnStep_mem {who : Turn} {s t : State} (h : turnStep who s = .next t) : MemChange s t.mem := by
  cases who with
  | engine => exact engineStep_mem h
  | syncWait => injection h with h; subst h; exact .same
  | command c => exact commandStep_mem h
  | reader => exact readerStep_mem h
  | ack =>
    simp only [turnStep, ackStep] at h
    split at h <;> (injection h with h; subst h; exact .same)
  | cancel =>
    simp only [turnStep, cancelStep] at h
    repeat' split at h
    all_goals (injection h with h; subst h; exact .same)

end Sys2Proof.Machine
end

