-- ==== Sys2Proof/Laws/Runs.lean ====
section
/-! SUPPORT. Runs under a schedule: a state every turn leaves as it is, and what has ended stays ended. -/

namespace Sys2Proof.Machine

open Sys2Proof

/-- A run from a state that every turn of the schedule leaves as it is stays there. -/
theorem scheduledRun_of_fixed {sched : Nat → Turn} {s : State} (h : ∀ n, turnStep (sched n) s = .next s) (n : Nat) :
    scheduledRun sched s n = some s := by
  induction n with
  | zero => rfl
  | succ n ih => simp only [scheduledRun, ih, h]

theorem engineStep_rdCtx {s t : State} (h : engineStep s = .next t) : t.rdCtx = s.rdCtx := by
  obtain ⟨_, rfl⟩ | ⟨_, _, i, _, _, he⟩ | ⟨_, _, _, _, _, _, hw⟩ := engineStep_cases h
  · rfl
  · obtain ⟨_, rfl⟩ | ⟨_, rfl⟩ | ⟨_, _, _, _, _, _, _, _, _, _, rfl⟩ | ⟨_, _, _, rfl⟩ := exec_cases he <;> rfl
  · obtain ⟨_, ⟨_, rfl⟩ | ⟨_, _, _, rfl⟩⟩ := writeByteStep_cases hw <;> rfl

/-- Only a command brings a READ into progress (42 R105). -/
theorem turnStep_rdCtx_none {who : Turn} {s t : State} (h : turnStep who s = .next t) (hw : ∀ c, who ≠ .command c)
    (hr : s.rdCtx = none) : t.rdCtx = none := by
  cases who with
  | engine => rw [engineStep_rdCtx h, hr]
  | syncWait => injection h with h; rw [← h, hr]
  | command c => exact absurd rfl (hw c)
  | reader =>
    simp only [turnStep, readerStep, hr] at h
    injection h with h; rw [← h, hr]
  | ack =>
    simp only [turnStep, ackStep] at h
    split at h <;> (injection h with h; subst h; exact hr)
  | cancel =>
    simp only [turnStep, cancelStep, hr] at h
    injection h with h; rw [← h, hr]

/-- After the end of a run no READ is in progress, however far the engine and the acknowledger go on (70_reset R154). -/
theorem EndsAt.rdCtx_none {sched : Nat → Turn} {s t : State} {n : Nat} (h : EndsAt sched s n t) (k : Nat) :
    ∀ u, scheduledRun sched s (n + k) = some u → u.rdCtx = none := by
  obtain ⟨-, ⟨⟨v, hn, hr⟩, hc⟩, -⟩ := h
  induction k with
  | zero => intro u hu; rw [← Option.some.inj (hn.symm.trans hu)]; exact hr
  | succ k ih =>
    intro u hu
    rw [← Nat.add_assoc, scheduledRun] at hu
    split at hu
    · cases hu
    next v hv =>
      split at hu
      next w hw =>
        rw [← Option.some.inj hu]
        exact turnStep_rdCtx_none hw (hc _ (Nat.le_add_right n k)) (ih v hv)
      · cases hu
      · cases hu

/-- A run ends at one point only, so one state is observed of it (70_reset R154). -/
theorem EndsAt.unique {sched : Nat → Turn} {s t u : State} {n k : Nat} (h : EndsAt sched s n t)
    (h' : EndsAt sched s k u) : n = k ∧ t = u := by
  have hnk : n = k := Nat.le_antisymm (Nat.not_lt.1 fun hlt => h.2.2 k hlt h'.2.1)
    (Nat.not_lt.1 fun hlt => h'.2.2 n hlt h.2.1)
  subst hnk
  exact ⟨rfl, Option.some.inj (h.1.symm.trans h'.1)⟩

/-- A run that has ended is no hang (70_reset R154). -/
theorem EndsAt.not_hangs {sched : Nat → Turn} {s t : State} {n : Nat} (h : EndsAt sched s n t) : ¬ Hangs sched s := by
  rintro ⟨m, hm⟩
  obtain ⟨u, hu, ⟨c, hc, -⟩, -⟩ := hm (n + m) (Nat.le_add_left m n)
  rw [h.rdCtx_none m u hu] at hc
  cases hc

end Sys2Proof.Machine
end

