-- ==== Sys2Proof/Tests/Slice0.lean ====
section
/-! SUPPORT. The model's own tests: the well-formedness smoke test, words written out from 30_encoding, single steps
of 95_test_vectors, and for every obligation with hypotheses a state that meets them. -/

namespace Sys2Proof.Tests

open Sys2Proof Sys2Proof.Machine

/-! ## Small machines -/

/-- The parameters of 95_test_vectors P2: two pages of 16 bytes, an interrupt every two pages. -/
def two : Params := { Params.standard with
  pageSize := 16, pageBases := [0x2000, 0x2010], irqPeriod := 2, progBase := 0x1000, progBufSize := 44,
  cdtBase := 0x3000 }

/-- The parameters of 95_test_vectors P4: four such pages. -/
def four : Params := { two with pageBases := [0x2000, 0x2010, 0x2020, 0x2030], progBufSize := 76 }

/-- Reset, with those parameters. -/
def idle (p : Params) : State := { State.reset with par := p }

/-- The pool allocated. -/
def allocated (p : Params) : State := { idle p with pool := .allocated }

/-- A running engine about to fetch at `epc`, with words placed at the start of the program buffer. -/
def running (p : Params) (epc : Word) (ws : List Word) : State :=
  { allocated p with engRun := .running, epc := epc, mem := Memory.writeWords [] p.progBase.toNat ws }

/-- A running engine moving bytes to page 0 or 1. -/
def writing (dst : Word) (done count : Nat) (w0 : Word) : State :=
  { running two 0x1004 [] with engPhase := .inWrite dst done count w0, gpcnt := 7 }

/-- An open session. -/
def session (p : Params) (gpcnt : Half) (startPage : Nat) (pos : DWord) : State :=
  { allocated p with sess := .opened, gpcnt := gpcnt, startPage := startPage, pos := pos, irq1En := true }

/-- An open session with a READ in progress. -/
def reading (p : Params) (pos : DWord) (c : ReadCtx) : State := { session p 3 0 pos with rdCtx := some c }

/-- What a step leaves, where it answers a next state. -/
def stateOf : Answer → Option State
  | .next t => some t
  | .fault _ => none
  | .refused _ => none

/-- One agent's step on a state. -/
def after (who : Turn) (s : State) : Option State := stateOf (turnStep who s)

/-! ## WellFormed and the encoding (30_encoding) -/

theorem test_write_of_no_bytes_is_ill_formed :
    (Instr.write true true false .none 0#12 0x2000#32).wellFormed = false := by decide

theorem test_write_of_4095_bytes_is_well_formed :
    (Instr.write false false false .none 4095#12 0x2000#32).wellFormed = true := by decide

/-- 30_encoding R66 and 95_test_vectors P1: the bytes of the seven words. -/
theorem test_decode_sync_reset : decode [0x00, 0x00, 0x03, 0x80] = .ok (.sync .reset, []) := by rfl

/-- 30_encoding R57: OP 0001, SOL 27, EOL 26, IRQ1 24, CNT 0b11, COUNT 0x800. -/
theorem test_decode_write_word :
    decodeControl 0b00011101000000110000100000000000#32 = .ok (.write true true true .last 2048#12) := by rfl

theorem test_decode_write_eol_only :
    decodeControl 0b00010100000000010000000000000001#32 = .ok (.write false true false .inc 1#12) := by rfl

theorem test_decode_write_sol_only :
    decodeControl 0b00011000000000000000111111111111#32 = .ok (.write true false false .none 4095#12) := by rfl

theorem test_decode_jump :
    decode [0x00, 0x00, 0x00, 0x70, 0x04, 0x10, 0x00, 0x00] = .ok (.jump 0x1004#32, []) := by rfl

/-- 95_test_vectors 2.1: the refused words. -/
theorem test_decode_refusals :
    decodeControl 0x80020000#32 = .error (.rejected .syncForm 0x80020000#32) ∧
    decodeControl 0x80008000#32 = .error (.rejected .syncForm 0x80008000#32) ∧
    decodeControl 0x80000200#32 = .error (.rejected .syncForm 0x80000200#32) ∧
    decodeControl 0x10000000#32 = .error (.rejected .zeroCount 0x10000000#32) ∧
    decodeControl 0x10001800#32 = .error (.rejected .reservedBits 0x10001800#32) ∧
    decodeControl 0x10040800#32 = .error (.rejected .reservedBits 0x10040800#32) ∧
    decodeControl 0x70000001#32 = .error (.rejected .jumpForm 0x70000001#32) ∧
    decodeControl 0x71000000#32 = .error (.rejected .jumpForm 0x71000000#32) ∧
    decodeControl 0x00000000#32 = .error (.rejected .opcode 0#32) ∧
    decodeControl 0xF0000000#32 = .error (.rejected .opcode 0xF0000000#32) := by
  refine ⟨?_, ?_, ?_, ?_, ?_, ?_, ?_, ?_, ?_, ?_⟩ <;> rfl

/-- 30_encoding R66: the control words of a generated program, P = 4096. -/
theorem test_encode_words :
    writeWord true true false .none 2048#12 = 0x1C000800#32 ∧
    writeWord true true false .inc 2048#12 = 0x1C010800#32 ∧
    writeWord true true true .inc 2048#12 = 0x1D010800#32 ∧
    writeWord true true false .last 2048#12 = 0x1C030800#32 := by decide

/-- The host's numbering: the second word of a JUMP is bits 63..32. -/
theorem test_decode_table_word : decodeTableWord 64 0x0000100470000000 = some (.jump 0x1004#32) := by decide

/-- 30_encoding R70's example. -/
theorem test_asm_write :
    asmText (.write true true false .none 2048#12 0x00100000#32) = "WRITE 2048, 0x00100000, sol, eol".toList := by decide

/-! ## The engine (95_test_vectors 2.2 to 2.4) -/

theorem test_sync_resets_the_counter :
    (stateOf (exec (.sync .reset) { idle two with epc := 0x10000, gpcnt := 0x1234 })).map (fun t => (t.epc, t.gpcnt))
      = some (0x10004#32, 0#16) := by decide

theorem test_sync_none_keeps_the_counter :
    (stateOf (exec (.sync .none) { idle two with epc := 0x10000, gpcnt := 0x1234 })).map (fun t => (t.epc, t.gpcnt))
      = some (0x10004#32, 0x1234#16) := by decide

/-- 2.3: `dst = 0x2008`, COUNT 8 ends exactly at the page's end. -/
theorem test_write_to_the_page_end :
    (stateOf (exec (.write false false false .none 8#12 0x2008#32) (allocated two))).map (fun t => t.engPhase)
      = some (.inWrite 0x2008#32 0 8 0x10000008#32) := by decide

/-- 2.3: `dst = 0x2009`, COUNT 8 crosses into page 1: stuck. -/
theorem test_write_across_pages_is_stuck :
    (match exec (.write false false false .none 8#12 0x2009#32) (allocated two) with
      | .fault f => some f | .next _ => none | .refused _ => none) = some (.writeOutsidePage 0x2009#32 8) := by decide

/-- 2.3: the counter wraps, a masked request is still set. -/
theorem test_write_last_byte_wraps_the_counter :
    (after .engine { writing 0x2008 7 8 0x1D010008 with
        gpcnt := 0xFFFF, draws := ⟨[0x5A], [], [], [], 0⟩ }).map
      (fun t => (t.gpcnt, t.irq1Stat, t.irqLine, t.epc, t.mem.read 0x200F))
      = some (0#16, true, false, 0x100C#32, 0x5A#8) := by decide

/-- 2.3: RESET_ZERO. -/
theorem test_write_last_tag_resets :
    (after .engine { writing 0x2008 7 8 0x1C030008 with
        gpcnt := 3, par := { two with lastCnt := .resetZero }, draws := ⟨[1], [], [], [], 0⟩ }).map
      (fun t => t.gpcnt) = some 0#16 := by decide

/-- 2.4: JUMP back past the SYNC. -/
theorem test_jump_step :
    (after .engine (running two 0x1000 [0x70000000, 0x00001024])).map (fun t => t.epc) = some 0x1024#32 := by decide

/-- 2.4: a misaligned target is refused. -/
theorem test_jump_misaligned :
    (match exec (.jump 0x1006#32) (idle two) with
      | .refused r => some r | .next _ => none | .fault _ => none) = some (.misalignedJumpTarget 0x1006#32) := by decide

/-- The fixed names run a table word from reset. -/
theorem test_fetch_word_runs :
    (stateOf (step (State.reset.withFetchWord 32 0x80000000))).map (fun t => t.epc) = some 0x10004#32 := by decide

/-! ## The builder (95_test_vectors 2.6, P1, P2) -/

/-- P2's eleven words. -/
theorem test_program_two_pages : programWords two =
    [0x80030000#32, 0x1C000008#32, 0x2000#32, 0x1C010008#32, 0x2008#32, 0x1C000008#32, 0x2010#32, 0x1D030008#32,
     0x2018#32, 0x70000000#32, 0x1004#32] := by decide

/-- P1's seven words, P = 4096, N = 1. -/
theorem test_program_one_page :
    programWords { Params.standard with pageBases := [0x00100000], cdtBase := 0x00020000 } =
    [0x80030000#32, 0x1C000800#32, 0x00100000#32, 0x1C030800#32, 0x00100800#32, 0x70000000#32, 0x00010004#32] := by
  decide

/-- R86's example. -/
theorem test_cdt_entries :
    cdtEntries { Params.standard with pageBases := [0x00100000, 0x00101000] } =
      [0x00100000#32, 0x00100800#32, 0x00101000#32, 0x00101800#32] := by decide

/-- 2.6: `100 mod 16 = 4`. -/
theorem test_allocate_uneven :
    (after (.command (.allocate 100 16)) (idle four)).map (fun t => (t.results, t.pool))
      = some ([.configurationError], .unallocated) := by decide

/-- S9: the draw fails. -/
theorem test_allocate_fails :
    (after (.command (.allocate 64 16)) { idle four with draws := ⟨[], [false], [], [], 0⟩ }).map
      (fun t => (t.results, t.pool)) = some ([.allocationError], .unallocated) := by decide

/-- 2.6: ALLOCATE of three pages succeeds in the instance with `N = 3`, and S8: of none in the one with `N = 0`. -/
theorem test_allocate_ungainly_rings :
    (after (.command (.allocate 48 16))
      { idle { four with pageBases := [0x2000, 0x2010, 0x2020] } with draws := ⟨[], [true], [], [], 0⟩ }).map
      (fun t => (t.results, t.pool)) = some ([.ok], .allocated) ∧
    (after (.command (.allocate 0 16))
      { idle { two with pageBases := [] } with draws := ⟨[], [true], [], [], 0⟩ }).map
      (fun t => (t.results, t.pool)) = some ([.ok], .allocated) := by decide

/-- S8: with `N = 0` BUILD_PROGRAM is a configuration error. -/
theorem test_build_program_of_no_pages :
    (after (.command .buildProgram) (allocated { two with pageBases := [] })).map (fun t => (t.results, t.mem))
      = some ([.configurationError], []) := by decide

/-- 2.6: a buffer of 43 bytes is too small. -/
theorem test_build_program_small_buffer :
    (after (.command .buildProgram) (allocated { two with progBufSize := 43 })).map (fun t => t.results)
      = some [.configurationError] := by decide

/-- 2.6: what START writes. -/
theorem test_start_registers :
    (after (.command .start) { allocated four with cdtBuilt := true, progBuilt := true, irq1Stat := true }).map
      (fun t => (t.irq1Stat, t.dmaPtr, t.dmaCdtPtr, t.dmaCdtSize, t.vidEn, t.epc))
      = some (false, 0x1000#32, 0x3000#32, 32#32, true, 0x1000#32) := by decide

/-- 2.3: STOP during a WRITE keeps `epc` and the counter. -/
theorem test_stop_abandons_a_write :
    (after (.command .stop) (writing 0x2008 3 8 0x1C010008)).map (fun t => (t.engRun, t.engPhase, t.epc, t.gpcnt))
      = some (.stopped, .atFetch, 0x1004#32, 7#16) := by decide

/-! ## The reader (95_test_vectors 2.7, 2.8) -/

theorem test_producer_page :
    (producerPage 4 0x0000, producerPage 4 0x0001, producerPage 4 0x0005, producerPage 4 0xFFFE, producerPage 4 0xFFFF)
      = (3, 0, 0, 1, 2) := by decide

theorem test_current_page :
    (currentPageOf four 3 17, currentPageOf four 2 63, currentPageOf four 1 0xFFFFFFFFFFFFFFFF, currentPageOf four 1 0)
      = (0, 1, 0, 1) := by decide

/-- R104's example. -/
theorem test_open_start_page :
    (after (.command .openSession) { allocated four with gpcnt := 5 }).map (fun t => (t.startPage, t.pos, t.irq1En))
      = some (0, 0#64, true) := by decide

/-- S5. -/
theorem test_read_would_block :
    (after (.command (.read 8 false)) (session four 3 0 32)).map (fun t => (t.results, t.pos, t.rdCtx))
      = some ([.wouldBlock], 32#64, none) := by decide

/-- V-RD2: the chunk is `min(11, 4) = 4` bytes. -/
theorem test_read_chunk_length :
    (after .reader (reading four 5 ⟨4, false, 0, 2, .scan⟩)).map (fun t => t.rdCtx)
      = some (some ⟨4, false, 0, 2, .copy 4 0⟩) := by decide

/-- V-RD5: the consumer rejects result byte 20; the 16 places of the failing chunk hold any value (93 U6). -/
theorem test_read_fault :
    (after .reader { reading four 16 ⟨32, false, 16, 2, .copy 16 4⟩ with
        sink := List.replicate 20 7, draws := ⟨[], [], [], [false], 0⟩ }).map
      (fun t => (t.results, t.sink.take 16, t.sink.length, t.pos, t.rdCtx))
      = some ([.fault 16], List.replicate 16 7, 32, 16#64, none) := by rfl

/-- R109: the last zero step commits. -/
theorem test_read_commit :
    (after .reader { reading four 5 ⟨4, false, 0, 2, .zero 4 3⟩ with mem := [(0x2008, 9)] }).map
      (fun t => (t.mem, t.pos, t.rdCtx)) = some ([], 9#64, some ⟨4, false, 4, 2, .scan⟩) := by decide

/-- V-RD7: cancelled while waiting. -/
theorem test_cancel_waiting :
    (after .cancel (reading four 16 ⟨32, true, 16, 1, .waiting⟩)).map (fun t => (t.results, t.pos))
      = some ([.interrupted], 16#64) := by decide

/-- 2.9. -/
theorem test_ack :
    (after .ack { idle two with vidEn := true, irq1En := true, irq1Stat := true }).map
      (fun t => (t.irq1Stat, t.dataReady, t.irqLine)) = some (false, true, false) := by decide

/-- 10_state R30: `GPCNT` reads zero-extended at its offset. -/
theorem test_reg_read_counter :
    (after (.command (.regRead 28 32)) { idle two with gpcnt := 0xFFFF }).map (fun t => t.regReads)
      = some [0x0000FFFF#32] := by decide

/-! ## Witnesses: a state that meets each obligation's hypotheses, and each clause's -/

theorem two_admissible : two.Admissible := by decide

theorem four_admissible : four.Admissible := by decide

theorem witness_DecodeOfEncodeIsTheInstruction :
    (Instr.write true false true .inc 1#12 0xFFFFFFFF#32).wellFormed = true := by decide

theorem witness_EncodeOfDecodeIsTheBytes :
    decode [0x01, 0x00, 0x00, 0x10, 0xFF, 0xFF, 0xFF, 0xFF, 0x09] =
      .ok (.write false false false .none 1#12 0xFFFFFFFF#32, [0x09]) := by rfl

theorem witness_StepIsTheScheduledAgentsStep :
    { idle two with agenda := [Turn.ack] }.agenda = .ack :: [] ∧ (idle two).agenda = [] := by decide

theorem witness_StepRunsTheDecodedInstruction :
    (running two 0x1000 [0x80030000]).agenda = [] ∧ (running two 0x1000 [0x80030000]).engRun = .running ∧
    (running two 0x1000 [0x80030000]).engPhase = .atFetch ∧
    decode (running two 0x1000 [0x80030000]).fetchBytes = .ok (.sync .reset, [0, 0, 0, 0]) := by
  refine ⟨rfl, rfl, rfl, rfl⟩

theorem witness_StoppedEngineDoesNotMove :
    { idle two with agenda := [Turn.engine] }.agenda = .engine :: [] ∧ (idle two).agenda = [] ∧
    (idle two).engRun = .stopped := by decide

theorem witness_UnadmittedWordIsRefused :
    let s := running two 0x1000 [0x90000000];
    s.engRun = .running ∧ s.engPhase = .atFetch ∧ s.epc.toNat % 4 = 0 ∧ s.insideProgram s.epc.toNat 4 = true ∧
    ∀ c, decodeControl (s.mem.readWord s.epc.toNat) ≠ .ok c := by
  refine ⟨rfl, rfl, by decide, by decide, ?_⟩
  have h : decodeControl ((running two 0x1000 [0x90000000]).mem.readWord 4096) = .error (.rejected .opcode 0x90000000#32) := by
    rfl
  intro c hc
  exact absurd (h.symm.trans hc) (by simp)

theorem witness_FetchOutsideTheProgramIsStuck :
    (running two 0x1002 []).epc.toNat % 4 ≠ 0 ∧ (running two 0x5000 []).epc.toNat % 4 = 0 ∧
    (running two 0x5000 []).insideProgram (running two 0x5000 []).epc.toNat 4 = false ∧
    (let s := { running two 0x1028 [] with mem := [(0x102B, 0x70)] };
     s.epc.toNat % 4 = 0 ∧ s.insideProgram s.epc.toNat 4 = true ∧ s.insideProgram (s.epc + 4#32).toNat 4 = false ∧
     decodeControl (s.mem.readWord s.epc.toNat) = .ok .jump) := by
  refine ⟨by decide, by decide, by decide, by decide, by decide, by decide, by rfl⟩

/-- The largest byte count and the top of the address space, `dst + COUNT = 2^32` exactly. -/
theorem witness_WriteBeginsItsTransfer :
    let s := allocated { Params.standard with pageBases := [0xFFFFF000] };
    (4095#12 : BitVec 12) ≠ 0#12 ∧ (0xFFFFF001#32).toNat + (4095#12 : BitVec 12).toNat ≤ 4294967296 ∧
    s.pool = .allocated ∧ ∃ b ∈ s.par.pageBases, b.toNat ≤ (0xFFFFF001#32).toNat ∧
      (0xFFFFF001#32).toNat + (4095#12 : BitVec 12).toNat ≤ b.toNat + s.par.pageSize :=
  ⟨by decide, by decide, rfl, 0xFFFFF000#32, List.mem_singleton.2 rfl, by decide, by decide⟩

theorem witness_WriteRefusedOrStuck :
    4294967296 < (0xFFFFFFF8#32).toNat + (9#12 : BitVec 12).toNat ∧
    (0xFFFFFFF8#32).toNat + (8#12 : BitVec 12).toNat ≤ 4294967296 ∧ (idle two).pool = .unallocated ∧
    (two.pageBases.all fun b => decide ((0x2009#32).toNat < b.toNat ∨ b.toNat + 16 < (0x2009#32).toNat + 8)) = true := by
  decide

theorem witness_JumpCompletes : (0xFFFFFFFC#32).toNat % 4 = 0 ∧ (0#32).toNat % 4 = 0 := by decide

theorem witness_MisalignedJumpIsRefused : (0x106#32).toNat % 4 ≠ 0 ∧ (0xFFFFFFFF#32).toNat % 4 ≠ 0 := by decide

theorem witness_WriteByteLands :
    let s := writing 0x2008 6 8 0x1C010008;
    s.MemOk ∧ s.engRun = .running ∧ s.engPhase = .inWrite 0x2008 6 8 0x1C010008 ∧ 6 + 1 ≠ 8 ∧
    s.insidePage ((0x2008#32).toNat + 6) 1 = true := by decide

theorem witness_WriteLastByteCountsAndRequests :
    let s := writing 0x2008 7 8 (writeWord true true true .last 8#12);
    s.MemOk ∧ s.engRun = .running ∧ s.engPhase = .inWrite 0x2008 7 (7 + 1) (writeWord true true true .last 8#12) ∧
    s.insidePage ((0x2008#32).toNat + 7) 1 = true ∧ s.par.lastCnt = .wrapInc ∧
    { two with lastCnt := .resetZero }.lastCnt = .resetZero := by decide

theorem witness_WriteLandsAllItsBytes :
    let s := writing 0x2008 0 8 (writeWord true true true .inc 8#12);
    s.MemOk ∧ s.engRun = .running ∧ (8#12 : BitVec 12) ≠ 0#12 ∧
    s.engPhase = .inWrite 0x2008 0 (8#12 : BitVec 12).toNat (writeWord true true true .inc 8#12) ∧
    s.insidePage (0x2008#32).toNat (8#12 : BitVec 12).toNat = true := by decide

theorem witness_EngineReachesNoRegister :
    (after .engine (running two 0x1000 [0x80030000])).isSome = true := by decide

theorem witness_OnlyTheEngineWritesTheCounter :
    (after .reader (reading four 5 ⟨4, false, 0, 2, .scan⟩)).isSome = true ∧ Turn.reader ≠ .engine := by decide

/-- `eng_run` changes both ways, by the commands and by the host's own write of `DMA_EN`. -/
theorem witness_OnlyStartAndStopChangeTheEngineRun :
    (after (.command .start) { allocated four with cdtBuilt := true, progBuilt := true }).map (fun t => t.engRun)
      = some .running ∧
    (after (.command .stop) (running two 0x1000 [])).map (fun t => t.engRun) = some .stopped ∧
    (after (.command (.regWrite 0 32 1)) (idle two)).map (fun t => t.engRun) = some .running ∧
    (after (.command (.regWrite 0 32 0)) (running two 0x1000 [])).map (fun t => t.engRun) = some .stopped := by decide

theorem witness_EveryStepKeepsMemoryCanonical :
    { writing 0x2008 7 8 0x1D010008 with mem := [(0x1003, 0x80)] }.MemOk ∧
    (stateOf (step (writing 0x2008 7 8 0x1D010008))).isSome = true := by decide

/-- The host about to start the engine by its own write of `DMA_EN`, `DMA_PTR` being the program's address. -/
def enabling : State :=
  { allocated two with agenda := [.command (.regWrite 0 32 1)], dmaPtr := 0x1000, progBuilt := true,
                       mem := Memory.writeWords [] 0x1000 (programWords two) }

/-- R30, R46: the engine starts at what `DMA_PTR` holds and no other register changes. -/
theorem test_enable_starts_at_dma_ptr :
    (after (.command (.regWrite 0 32 1)) { idle two with dmaPtr := 0x1004, irq1Stat := true }).map
      (fun t => (t.engRun, t.epc, t.dmaPtr, t.vidEn, t.irq1Stat))
      = some (.running, 0x1004#32, 0x1004#32, false, true) := by decide

/-- A step of a running engine, and a start by the host's own write. -/
theorem witness_EveryStepKeepsEpcAligned :
    (running two 0x1000 [0x80030000]).EpcAligned ∧
    (stateOf (step (running two 0x1000 [0x80030000]))).isSome = true ∧
    (running two 0x1000 [0x80030000]).engRun ≠ .stopped ∧
    enabling.EpcAligned ∧ (stateOf (step enabling)).map (fun t => t.epc) = some 0x1000#32 ∧
    enabling.dmaPtr.toNat % 4 = 0 := by decide

/-- A READ in the middle of a chunk that ends at the page's end. -/
theorem session_ok_reading : (reading four 5 ⟨20, false, 0, 2, .copy 11 10⟩).SessionOk := by
  refine ⟨four_admissible, fun _ => ⟨rfl, by decide⟩, ?_⟩
  intro c hc
  injection hc with hc
  subst hc
  refine ⟨rfl, by decide, by decide, fun _ _ => by decide, ?_⟩
  exact ⟨by decide, by decide, by decide, by decide⟩

theorem witness_EveryStepKeepsTheSession :
    (reading four 5 ⟨20, false, 0, 2, .copy 11 10⟩).SessionOk ∧
    (stateOf (step { reading four 5 ⟨20, false, 0, 2, .copy 11 10⟩ with agenda := [.syncWait] })).isSome = true :=
  ⟨session_ok_reading, by decide⟩

theorem witness_TheReaderIsNeverStuck : (reading four 5 ⟨20, false, 0, 2, .copy 11 10⟩).SessionOk := session_ok_reading

/-- An engine on the generated program of P2, moving byte 3 of page 1's high half. -/
def onProgram : State :=
  { running two 0x101C (programWords two) with
    progBuilt := true, cdtBuilt := true, synced := true, gpcnt := 1,
    engPhase := .inWrite 0x2018 3 8 0x1D030008 }

theorem program_run_ok_onProgram : onProgram.ProgramRunOk := by
  refine ⟨two_admissible, by decide, fun _ => by decide, fun _ => ⟨rfl, rfl, .inr ⟨rfl, 3, ⟨by decide, by decide, .inr ?_⟩, by decide⟩⟩⟩
  exact ⟨true, true, true, .last, 8#12, 0x2018#32, 3, by decide, by decide, by decide⟩

theorem program_run_ok_enabling : enabling.ProgramRunOk :=
  ⟨two_admissible, by decide, fun _ => by decide, fun h => by cases h⟩

/-- A step of a running engine, and a start by the host's own write. -/
theorem witness_EveryStepKeepsTheProgramRun :
    (onProgram.MemOk ∧ onProgram.ProgramRunOk ∧ onProgram.engRun ≠ .stopped ∧ (stateOf (step onProgram)).isSome = true) ∧
    enabling.MemOk ∧ enabling.ProgramRunOk ∧ (stateOf (step enabling)).isSome = true ∧
    enabling.dmaPtr = enabling.par.progBase ∧ enabling.pool = .allocated ∧ enabling.progBuilt = true :=
  ⟨⟨by decide, program_run_ok_onProgram, by decide, by decide⟩, by decide, program_run_ok_enabling, by decide⟩

theorem witness_TheProgramRunNeverStops : onProgram.ProgramRunOk := program_run_ok_onProgram

theorem witness_ThePageBeingWrittenIsTheCountersPage :
    onProgram.ProgramRunOk ∧ onProgram.engRun = .running ∧ onProgram.engPhase = .inWrite 0x2018 3 8 0x1D030008 :=
  ⟨program_run_ok_onProgram, rfl, rfl⟩

/-- Addresses at both ends of the program buffer and of the table. -/
theorem witness_ProgramAndTableAreImmutableWhileRunning :
    onProgram.par.Admissible ∧ onProgram.MemOk ∧ onProgram.engRun = .running ∧
    (stateOf (step onProgram)).isSome = true ∧
    (onProgram.par.progBase.toNat ≤ 0x102B ∧ 0x102B < onProgram.par.progBase.toNat + onProgram.par.progBufSize) ∧
    (onProgram.par.cdtBase.toNat ≤ 0x300F ∧ 0x300F < onProgram.par.cdtBase.toNat + onProgram.par.cdtBytes) := by
  decide

theorem witness_NoStepChangesTheParameters : (stateOf (step onProgram)).isSome = true := by decide

theorem witness_InvariantsHoldAtReset :
    (idle four).IsReset ∧ four.Admissible ∧
    Apart four.progBase.toNat four.progBufSize four.cdtBase.toNat four.cdtBytes := by decide

theorem witness_ResetIsAsTheSpecSays : { idle two with gpcnt := 0xBEEF, irq1Stat := true, epc := 3 }.IsReset := by decide

theorem witness_AllocateOutcomes :
    (running two 0 []).engRun = .running ∧
    ((allocated two).engRun = .stopped ∧ (allocated two).pool = .allocated) ∧
    ((idle two).engRun = .stopped ∧ (idle two).pool = .unallocated) ∧
    ¬ (2 ≤ 1 ∧ ∃ e ≤ 12, 1 = 2 ^ e) ∧ 100 % 16 ≠ 0 ∧
    (2 ≤ 4096 ∧ ∃ e ≤ 12, 4096 = 2 ^ e) ∧ 65536 % 4096 = 0 ∧ 4096 ≠ two.pageSize ∧
    32 % 16 = 0 ∧ 16 = two.pageSize ∧ 32 / 16 = two.numPages ∧
    { idle two with draws := ⟨[], [true], [], [], 0⟩ }.nextAlloc = true ∧
    { idle two with draws := ⟨[], [false], [], [], 0⟩ }.nextAlloc = false :=
  ⟨rfl, ⟨rfl, rfl⟩, ⟨rfl, rfl⟩, by omega, by decide, ⟨by decide, 12, by decide, by decide⟩, by decide, by decide,
    by decide, rfl, by decide, rfl, rfl⟩

/-- Without a fill, and with one that reaches outside the pages; the first byte of a page and the last of the ring. -/
theorem witness_AllocateLeavesOtherMemory :
    (after (.command (.allocate 32 16)) { idle two with draws := ⟨[], [true], [], [], 0⟩ }).isSome = true ∧
    (after (.command (.allocate 32 16))
      { idle two with draws := ⟨[], [true], [[(0x2000, 5), (0x3000, 6)]], [], 0⟩ }).map (fun t => t.mem)
      = some [(0x2000, 5)] ∧
    (0x2000#32 ∈ two.pageBases ∧ (0x2000#32).toNat ≤ 0x2000 ∧ 0x2000 < (0x2000#32).toNat + two.pageSize) ∧
    (0x2010#32 ∈ two.pageBases ∧ (0x2010#32).toNat ≤ 0x201F ∧ 0x201F < (0x2010#32).toNat + two.pageSize) ∧
    (two.pageBases.all fun b => decide (0x2020 < b.toNat ∨ b.toNat + two.pageSize ≤ 0x2020)) = true := by decide

theorem witness_FreeOutcomes :
    (running two 0 []).engRun = .running ∧ (session two 0 0 0).sess = .opened ∧
    (allocated two).engRun = .stopped ∧ (allocated two).sess = .idle := by decide

theorem witness_BuildsWhileRunningAreRefused : (running two 0 []).engRun = .running := by decide

theorem witness_BuildCdtWritesTheAddressLaw :
    ((idle two).engRun = .stopped ∧ (idle two).pool = .unallocated) ∧
    (let s := allocated { two with pageBases := [] };
     s.engRun = .stopped ∧ s.pool = .allocated ∧ ¬ ∃ e ≤ 16, s.par.numPages = 2 ^ e) ∧
    (allocated two).MemOk ∧ two.Admissible ∧ (allocated two).engRun = .stopped ∧ (allocated two).pool = .allocated ∧
    (3 < 2 * two.numPages ∧ two.pageBases[3 / 2]? = some 0x2010) := by decide

theorem witness_BuildProgramWritesTheLayout :
    ((idle two).engRun = .stopped ∧ (idle two).pool = .unallocated) ∧
    (let s := allocated { four with pageBases := [0x2000, 0x2010, 0x2020] };
     s.engRun = .stopped ∧ s.pool = .allocated ∧ ¬ ∃ e ≤ 16, s.par.numPages = 2 ^ e) ∧
    { two with progBufSize := 43 }.progBufSize < 16 * { two with progBufSize := 43 }.numPages + 12 ∧
    (allocated two).MemOk ∧ two.Admissible ∧ (allocated two).engRun = .stopped ∧ (allocated two).pool = .allocated ∧
    (allocated two).cdtBuilt = false ∧ two.pageBases[0]? = some 0x2000 ∧ two.pageBases[1]? = some 0x2010 ∧
    { allocated two with cdtBuilt := true, mem := Memory.writeWords [] 0x3000 (cdtEntries two) }.cdtMatches = true := by
  decide

theorem witness_BuilderPlacesRequestsAndTags :
    four.pageBases[0]? = some 0x2000 ∧ four.pageBases[3]? = some 0x2030 ∧ (3 + 1) % four.irqPeriod = 0 ∧
    (0 + 1) % four.irqPeriod ≠ 0 ∧ 3 + 1 = four.numPages := by decide

theorem witness_TablesBuiltFromOnePoolAgree :
    (allocated two).MemOk ∧ two.Admissible ∧ (allocated two).engRun = .stopped ∧ (allocated two).pool = .allocated ∧
    (after (.command .buildCdt) (allocated two)).isSome = true ∧
    { allocated two with cdtBuilt := true }.cdtMatches = false := by decide

theorem witness_BuildsAreDeterministic :
    let s1 := allocated two
    let s2 := { allocated { two with lastCnt := .resetZero } with gpcnt := 9, mem := [(0x2000, 1)] }
    (after (.command .buildProgram) s1).map (fun t => t.results) = some [.ok] ∧
    (after (.command .buildProgram) s2).map (fun t => t.results) = some [.ok] ∧
    (after (.command .buildCdt) s1).map (fun t => t.results) = some [.ok] ∧
    (after (.command .buildCdt) s2).map (fun t => t.results) = some [.ok] ∧
    s1.MemOk ∧ s2.MemOk ∧ s1.par.Admissible ∧ s2.par.Admissible ∧
    s2.par.pageSize = s1.par.pageSize ∧ s2.par.pageBases = s1.par.pageBases ∧
    s2.par.irqPeriod = s1.par.irqPeriod ∧ s2.par.progBase = s1.par.progBase ∧ s2.par.cdtBase = s1.par.cdtBase ∧
    two.progBase.toNat ≤ 0x102B ∧ 0x102B < two.progBase.toNat + two.programBytes ∧
    two.cdtBase.toNat ≤ 0x300F ∧ 0x300F < two.cdtBase.toNat + two.cdtBytes := by decide

theorem witness_StartOutcomes :
    (running two 0 []).engRun = .running ∧ (idle two).engRun = .stopped ∧ (idle two).pool = .unallocated ∧
    (let s := { allocated two with cdtBuilt := true, progBuilt := true };
     s.engRun = .stopped ∧ s.pool = .allocated ∧ s.cdtBuilt = true ∧ s.progBuilt = true) := by decide

theorem witness_StopOutcomes : (running two 0 []).engRun = .running ∧ (idle two).engRun = .stopped := by decide

theorem witness_SetupErrorsLeaveTheBlock :
    (after (.command .start) (idle two)).map (fun t => t.results) = some ((idle two).results ++ [.configurationError]) ∧
    (after (.command (.allocate 32 16)) { idle two with draws := ⟨[], [false], [], [], 0⟩ }).map (fun t => t.results)
      = some ((idle two).results ++ [.allocationError]) := by decide

/-- The smallest and the largest ring. -/
theorem witness_PageOfIsContinuousAcrossTheWrap : (∃ e ≤ 16, 1 = 2 ^ e) ∧ (∃ e ≤ 16, 65536 = 2 ^ e) :=
  ⟨⟨0, by decide, rfl⟩, ⟨16, by decide, rfl⟩⟩

theorem witness_CurrentPageIsContinuousAcrossTheWrap : four.Admissible := four_admissible

theorem witness_OpenOutcomes :
    (idle two).pool = .unallocated ∧ ((session two 0 0 0).pool = .allocated ∧ (session two 0 0 0).sess = .opened) ∧
    (allocated two).pool = .allocated ∧ (allocated two).sess = .idle := by decide

theorem witness_CloseOutcomes :
    (idle two).sess = .idle ∧ (reading four 5 ⟨4, false, 0, 2, .scan⟩).rdCtx ≠ none ∧
    (session two 0 0 0).sess = .opened ∧ (session two 0 0 0).rdCtx = none ∧ 1 ≤ two.numPages := by decide

/-- No session; at the producer's page; ahead of it; a blocking READ. -/
theorem witness_ReadEntryOutcomes :
    (idle two).sess = .idle ∧ (session four 3 0 32).sess = .opened ∧ (session four 3 0 32).rdCtx = none ∧
    (session four 3 0 32).currentPage = (session four 3 0 32).sampledPage ∧
    (session four 3 0 0).currentPage ≠ (session four 3 0 0).sampledPage := by decide

/-- A state whose READ is about to scan, for any committed count up to `max`. -/
theorem session_ok_scan (pos : DWord) (c : ReadCtx) (hp : c.phase = .scan) (h1 : c.copied ≤ c.max) (h2 : c.prod < 4)
    (h3 : c.blocking = false → c.copied = 0#64 → (reading four pos c).currentPage ≠ c.prod) :
    (reading four pos c).SessionOk := by
  refine ⟨four_admissible, fun _ => ⟨rfl, show 0 < 4 by decide⟩, ?_⟩
  intro c' hc
  injection hc with hc
  subst hc
  refine ⟨rfl, h1, h2, h3, ?_⟩
  rw [hp]
  trivial

theorem witness_ScanOutcomes :
    (reading four 5 ⟨4, false, 0, 2, .scan⟩).SessionOk ∧ (reading four 16 ⟨16, false, 16, 2, .scan⟩).SessionOk ∧
    (reading four 32 ⟨40, false, 32, 2, .scan⟩).SessionOk ∧ (reading four 32 ⟨40, true, 32, 2, .scan⟩).SessionOk ∧
    (reading four 5 ⟨4, false, 0, 2, .scan⟩).currentPage ≠ 2 ∧
    (reading four 32 ⟨40, true, 32, 2, .scan⟩).currentPage = 2 :=
  ⟨session_ok_scan _ _ rfl (by decide) (by decide) (fun _ _ => by decide),
    session_ok_scan _ _ rfl (by decide) (by decide) (fun _ _ => by decide),
    session_ok_scan _ _ rfl (by decide) (by decide) (fun _ h => by simp at h),
    session_ok_scan _ _ rfl (by decide) (by decide) (fun h _ => by simp at h), by decide, by decide⟩

/-- The last byte of a page, accepted and rejected. -/
theorem witness_CopyOutcomes :
    let s := { reading four 5 ⟨20, false, 0, 2, .copy 11 10⟩ with draws := ⟨[], [], [], [true], 0⟩ };
    s.rdCtx = some ⟨20, false, 0, 2, .copy 11 10⟩ ∧ s.pool = .allocated ∧
    s.par.pageBases[s.currentPage]? = some 0x2000 ∧ (0x2000#32).toNat + s.par.pageSize ≤ 4294967296 ∧
    s.pos.toNat % s.par.pageSize + 10 < s.par.pageSize ∧ s.sinkAhead 0 = true ∧
    { s with draws := ⟨[], [], [], [false], 0⟩ }.sinkAhead 0 = false := by decide

theorem witness_ZeroOutcomes :
    let s := reading four 5 ⟨20, false, 0, 2, .zero 11 10⟩;
    s.MemOk ∧ s.rdCtx = some ⟨20, false, 0, 2, .zero 11 10⟩ ∧ s.pool = .allocated ∧
    s.par.pageBases[s.currentPage]? = some 0x2000 ∧ (0x2000#32).toNat + s.par.pageSize ≤ 4294967296 ∧
    s.pos.toNat % s.par.pageSize + 10 < s.par.pageSize ∧ 11 ≤ 10 + 1 ∧ 9 + 1 < 11 := by decide

/-- A READ at the start of a chunk of two bytes, both accepted. -/
def chunkStart : State :=
  { reading four 14 ⟨2, false, 0, 2, .copy 2 0⟩ with draws := ⟨[], [], [], [true, true], 0⟩, mem := [(0x200E, 1), (0x200F, 2)] }

theorem witness_ReadDeliversAndPoisonsTheChunk :
    chunkStart.SessionOk ∧ chunkStart.MemOk ∧ chunkStart.rdCtx = some ⟨2, false, 0, 2, .copy 2 0⟩ ∧
    chunkStart.par.pageBases[chunkStart.currentPage]? = some 0x2000 ∧ ∀ k, k < 2 → chunkStart.sinkAhead k = true := by
  refine ⟨⟨four_admissible, fun _ => ⟨rfl, by decide⟩, ?_⟩, by decide, rfl, by decide, by decide⟩
  intro c hc
  injection hc with hc
  subst hc
  exact ⟨rfl, by decide, by decide, fun _ _ => by decide, by decide, by decide, by decide, by decide⟩

theorem witness_BlockingWaitOutcomes :
    (reading four 0 ⟨20, true, 0, 2, .resample⟩).rdCtx = some ⟨20, true, 0, 2, .resample⟩ ∧
    (reading four 0 ⟨20, true, 0, 2, .resample⟩).currentPage ≠ (reading four 0 ⟨20, true, 0, 2, .resample⟩).sampledPage ∧
    (reading four 32 ⟨20, true, 0, 2, .resample⟩).currentPage = (reading four 32 ⟨20, true, 0, 2, .resample⟩).sampledPage ∧
    { reading four 32 ⟨20, true, 0, 2, .waiting⟩ with dataReady := true }.dataReady = true ∧
    (reading four 32 ⟨20, true, 0, 2, .waiting⟩).dataReady = false := by decide

theorem witness_CancelOutcomes :
    (reading four 32 ⟨20, true, 0, 2, .waiting⟩).rdCtx = some ⟨20, true, 0, 2, .waiting⟩ ∧
    (idle two).rdCtx = none := by decide

theorem witness_ReadLeavesSessionAndRegisters :
    (after .reader (reading four 5 ⟨4, false, 0, 2, .scan⟩)).isSome = true ∧
    (after (.command (.read 8 false)) (session four 3 0 32)).isSome = true ∧
    (after .cancel (idle two)).isSome = true := by decide

theorem witness_AcknowledgeOutcomes :
    (let s := { idle two with vidEn := true, irq1En := true, irq1Stat := true };
     s.vidEn = true ∧ s.irq1En = true ∧ s.irq1Stat = true) ∧ (idle two).vidEn = false := by decide

/-- The schedule in which only the acknowledger moves is fair to it and its run goes on for ever. -/
theorem run_of_acks (n : Nat) : scheduledRun (fun _ => .ack) (idle two) n = some (idle two) :=
  scheduledRun_of_fixed (fun _ => rfl) n

theorem witness_FairAcknowledgerKeepsTheLineDown :
    AckFair (fun _ => .ack) (idle two) ∧ ∀ n, scheduledRun (fun _ => .ack) (idle two) n ≠ none :=
  ⟨fun n => ⟨n, Nat.le_refl n, fun _ _ _ => rfl⟩, fun n => by simp [run_of_acks]⟩

/-- R146: a blocking READ at the producer's page of a stopped engine, without a request, waits for ever. -/
def waitingForGood : State := reading four 32 ⟨20, true, 0, 2, .waiting⟩

/-- No turn of the engine, the acknowledger or the READ changes that state. -/
theorem waitingForGood_fixed {who : Turn} (h : who ≠ .cancel ∧ ∀ c, who ≠ .command c) :
    turnStep who waitingForGood = .next waitingForGood := by
  cases who with
  | command c => exact absurd rfl (h.2 c)
  | cancel => exact absurd rfl h.1
  | engine => rfl
  | syncWait => rfl
  | reader => rfl
  | ack => rfl

theorem waitingForGood_cannot_leave : ¬ waitingForGood.CanLeaveWait := by
  rintro ⟨sched, n, t, hs, ht, hw⟩
  have hrun := scheduledRun_of_fixed (fun m => waitingForGood_fixed (hs m)) n
  rw [← Option.some.inj (hrun.symm.trans ht)] at hw
  exact hw ⟨_, rfl, rfl⟩

/-- R146, R154: under a schedule fair to host, acknowledger and engine that run is a hang, and has not ended. -/
theorem test_wait_without_request_hangs :
    (HostFair (fun _ => .reader) waitingForGood ∧ AckFair (fun _ => .reader) waitingForGood ∧
      EngineFair (fun _ => .reader) waitingForGood) ∧
    Hangs (fun _ => .reader) waitingForGood ∧ ∀ n t, ¬ EndsAt (fun _ => .reader) waitingForGood n t := by
  have hrun : ∀ n, scheduledRun (fun _ => .reader) waitingForGood n = some waitingForGood :=
    scheduledRun_of_fixed fun _ => rfl
  have hang : Hangs (fun _ => .reader) waitingForGood :=
    ⟨0, fun m _ => ⟨_, hrun m, ⟨_, rfl, rfl⟩, waitingForGood_cannot_leave⟩⟩
  refine ⟨⟨fun n => ⟨n, Nat.le_refl n, fun _ _ _ => rfl⟩, fun n => ⟨n, Nat.le_refl n, fun t ht he => ?_⟩,
    fun n => ⟨n, Nat.le_refl n, fun t ht he => ?_⟩⟩, hang, fun n t h => h.not_hangs hang⟩
  · rw [← Option.some.inj ((hrun n).symm.trans ht)] at he; cases he
  · rw [← Option.some.inj ((hrun n).symm.trans ht)] at he; cases he.1

/-- R154: a READ with `data_ready` set can leave `Waiting`, so a run that never schedules it is no hang. -/
theorem test_unscheduled_reader_is_no_hang : ¬ Hangs (fun _ => .ack) { waitingForGood with dataReady := true } := by
  rintro ⟨n, hn⟩
  obtain ⟨t, ht, -, hl⟩ := hn n (Nat.le_refl n)
  rw [scheduledRun_of_fixed (fun _ => rfl) n] at ht
  refine hl ⟨fun _ => .reader, 1, _, fun _ => ⟨by simp, by simp⟩, by rw [← Option.some.inj ht]; rfl, ?_⟩
  rintro ⟨c, hc, hp⟩
  injection hc with hc
  subst hc
  cases hp

/-- R154: the run whose one command is STOP ends when it has returned, not before and at no later point. -/
theorem test_run_ends_once :
    let sched := fun n => if n = 0 then Turn.command .stop else .engine
    EndsAt sched (idle two) 1 { idle two with results := [.ok] } ∧
      ∀ n t, EndsAt sched (idle two) n t → n = 1 := by
  intro sched
  have hlate : ∀ m, 1 ≤ m → ∀ c, sched m ≠ .command c := fun m hm c h => by
    simp only [sched, if_neg (Nat.one_le_iff_ne_zero.1 hm)] at h
    cases h
  have hend : EndsAt sched (idle two) 1 { idle two with results := [.ok] } :=
    ⟨rfl, ⟨⟨_, rfl, rfl⟩, hlate⟩, fun k hk h => h.2 0 (Nat.le_of_lt_succ hk) .stop rfl⟩
  exact ⟨hend, fun n t h => (h.unique hend).1⟩

/-- R73's exemption: a run that never schedules an engine stuck at a fetch again is fair to the engine. -/
theorem test_stuck_engine_is_no_unfairness : EngineFair (fun _ => .ack) (running two 0x5000 []) := by
  have hrun : ∀ n, scheduledRun (fun _ => .ack) (running two 0x5000 []) n = some (running two 0x5000 []) :=
    scheduledRun_of_fixed fun _ => rfl
  have hstuck : engineStep (running two 0x5000 []) = .fault (.fetchOutsideProgram 0x5000) := rfl
  intro n
  refine ⟨n, Nat.le_refl n, fun t ht he => ?_⟩
  obtain ⟨_, u, hu⟩ := he
  rw [← Option.some.inj ((hrun n).symm.trans ht), hstuck] at hu
  cases hu

theorem witness_RegReadReturnsTheRegister : two.Admissible := two_admissible

theorem witness_RegWriteChangesTheField :
    two.Admissible ∧ (1#32).getLsbD two.fieldBit.dmaEn.val = true ∧ (idle two).engRun = .stopped ∧
    (running two 0 []).engRun = .running ∧ (0#32).getLsbD two.fieldBit.dmaEn.val = false ∧
    (0#32).getLsbD two.fieldBit.dmaEn.val = (idle two).dmaEn ∧ (1#32).getLsbD two.fieldBit.irq1Stat.val = true := by decide

theorem witness_MisalignedRegisterAccessIsRefused : (16 ≠ 32) ∧ (2 % 4 ≠ 0) := by decide

end Sys2Proof.Tests
end

