-- ==== Sys2Proof/Proofs/Scope.lean ====
section
/-! The agenda and one step (00_scope R7, log entry 2): whose turn `step` takes, for an agenda with a head and for
the empty one. -/

namespace Sys2Proof.Machine

open Sys2Proof

theorem State.nextTurn_of_agenda_cons {s : State} {t : Turn} {rest : List Turn} (h : s.agenda = t :: rest) :
    s.nextTurn = (t, rest) := by
  simp only [State.nextTurn, h]

theorem State.nextTurn_of_agenda_nil {s : State} (h : s.agenda = []) : s.nextTurn = (.engine, []) := by
  simp only [State.nextTurn, h]

@[simp] theorem State.setAgenda_agenda_self (s : State) : s.setAgenda s.agenda = s := rfl

theorem step_of_agenda_cons {s : State} {t : Turn} {rest : List Turn} (h : s.agenda = t :: rest) :
    step s = turnStep t (s.setAgenda rest) := by
  rw [step, State.nextTurn_of_agenda_cons h]

theorem step_of_agenda_nil {s : State} (h : s.agenda = []) : step s = turnStep .engine s :=
  calc step s = turnStep .engine (s.setAgenda []) := by rw [step, State.nextTurn_of_agenda_nil h]
    _ = turnStep .engine s := by rw [← h, State.setAgenda_agenda_self]

/-- Settles O5: the agenda's head moves on the rest of the agenda; an empty agenda stays empty, so the engine moves
in the state itself. -/
theorem stepIsTheScheduledAgentsStep : Obligations.StepIsTheScheduledAgentsStep := by
  unfold Obligations.StepIsTheScheduledAgentsStep
  exact fun _ => ⟨fun _ _ => step_of_agenda_cons, step_of_agenda_nil⟩

end Sys2Proof.Machine
end

/-! # The block's state (10_state): what each agent's step keeps and what it can change -/

namespace Sys2Proof.Machine

open Sys2Proof

/-! ## Memory's canonical form (10_state R34, log entry 7) -/

@[simp] theorem cdtEntries_length (p : Params) : (cdtEntries p).length = 2 * p.numPages := by
  simp [cdtEntries, Params.numPages, List.length_flatMap, Nat.mul_comm]

/-- Each page has two WRITEs of two words (41 R89). -/
@[simp] theorem pageInstrs_words_length (p : Params) (irqt : Nat) (bases : List Word) :
    ((pageInstrs p irqt bases).flatMap encode).length = 4 * bases.length := by
  induction bases generalizing irqt with
  | nil => rfl
  | cons b rest ih => simp [pageInstrs, encode, ih]; omega

/-- The generated program takes `16 N + 12` bytes (41 R94). -/
theorem programWords_bytes (p : Params) : 4 * (programWords p).length = p.programBytes := by
  rw [programWords, programInstrs, List.flatMap_cons, List.flatMap_append, List.length_append, List.length_append,
    pageInstrs_words_length]
  simp [encode, Params.programBytes, Params.numPages]; omega

/-- Every change a step makes to memory keeps the canonical form. -/
theorem MemChange.wf {s : State} {m : Memory} (h : MemChange s m) (hs : s.MemOk) : m.wf = true := by
  cases h with
  | same => exact hs
  | pageByte a b ha =>
    obtain ⟨-, -, hle⟩ := (s.insidePage_iff a 1).1 ha
    exact Memory.wf_write hs (by omega) b
  | fill cells _ => exact wf_fillCells hs cells
  | table _ hle => exact Memory.wf_writeWords hs (by simp only [cdtEntries_length, Params.cdtBytes] at hle ⊢; omega)
  | program _ hle _ => exact Memory.wf_writeWords hs (by rwa [programWords_bytes])

/-- Settles O21: `turnStep_mem` lists the changes a step can make to memory, and each keeps the form. -/
theorem everyStepKeepsMemoryCanonical : Obligations.EveryStepKeepsMemoryCanonical := by
  unfold Obligations.EveryStepKeepsMemoryCanonical
  intro s t hs h
  exact (turnStep_mem h).wf hs

/-! ## The engine as the other agents see it (10_state R21 to R24) -/

/-- What the engine runs by: the parameters, `eng_run`, `epc`, `eng_phase` and `GPCNT`. -/
structure EngineView where
  par      : Params
  engRun   : EngRun
  epc      : Word
  engPhase : EngPhase
  gpcnt    : Half

def State.engineView (s : State) : EngineView := ⟨s.par, s.engRun, s.epc, s.engPhase, s.gpcnt⟩

/-- The engine after a 0->1 write of `DMA_EN` with `a` in `DMA_PTR` (10_state R30). -/
def EngineView.startedAt (v : EngineView) (a : Word) : EngineView :=
  { v with engRun := .running, epc := a, engPhase := .atFetch }

/-- The engine after a 1->0 write of `DMA_EN` (10_state R30). -/
def EngineView.halted (v : EngineView) : EngineView := { v with engRun := .stopped, engPhase := .atFetch }

/-- What a turn other than the engine's can do to the engine: nothing, or start or stop it, by the host's command or by
its own write of `DMA_EN` (10_state R21, R30; log entry 10). -/
inductive EngineChange (s t : State) : Turn → Prop where
  | same {who : Turn} (h : t.engineView = s.engineView) : EngineChange s t who
  | start (hr : s.engRun = .stopped) (h : t.engineView = s.engineView.startedAt s.par.progBase) :
      EngineChange s t (.command .start)
  | stop (hr : s.engRun = .running) (h : t.engineView = s.engineView.halted) : EngineChange s t (.command .stop)
  | rawStart (v : Word) (hr : s.engRun = .stopped) (h : t.engineView = s.engineView.startedAt s.dmaPtr) :
      EngineChange s t (.command (.regWrite s.par.regOff.devCntrl 32 v))
  | rawStop (v : Word) (hr : s.engRun = .running) (h : t.engineView = s.engineView.halted) :
      EngineChange s t (.command (.regWrite s.par.regOff.devCntrl 32 v))

/-! ### The operations that change no part of the engine -/

@[simp] theorem State.afterFree_engineView (s : State) : s.afterFree.engineView = s.engineView := rfl

@[simp] theorem State.afterAlloc_engineView (s : State) : s.afterAlloc.engineView = s.engineView := by
  rw [State.afterAlloc_eq]; rfl

@[simp] theorem State.fillPages_engineView (s : State) : s.fillPages.engineView = s.engineView := by
  rw [State.fillPages_eq]; rfl

@[simp] theorem State.returned_engineView (s : State) (r : Result) : (s.returned r).engineView = s.engineView := rfl

@[simp] theorem State.setSynced_engineView (s : State) (v : Bool) : (s.setSynced v).engineView = s.engineView := rfl

@[simp] theorem State.setPool_engineView (s : State) (v : Pool) : (s.setPool v).engineView = s.engineView := rfl

theorem allocate_engineView {capacity pageSize : Nat} {s t : State} (h : allocate capacity pageSize s = .next t) :
    t.engineView = s.engineView := by
  unfold allocate at h
  split_ifs at h <;> cases h <;> simp

theorem free_engineView {s t : State} (h : free s = .next t) : t.engineView = s.engineView := by
  unfold free at h
  split_ifs at h; cases h; rfl

theorem buildCdt_engineView {s t : State} (h : buildCdt s = .next t) : t.engineView = s.engineView := by
  unfold buildCdt at h
  split_ifs at h <;> cases h <;> rfl

theorem buildProgram_engineView {s t : State} (h : buildProgram s = .next t) : t.engineView = s.engineView := by
  unfold buildProgram at h
  split_ifs at h <;> cases h <;> rfl

theorem openSession_engineView {s t : State} (h : openSession s = .next t) : t.engineView = s.engineView := by
  unfold openSession at h
  split_ifs at h <;> cases h <;> simp [State.engineView, State.returned]

theorem close_engineView {s t : State} (h : close s = .next t) : t.engineView = s.engineView := by
  unfold close at h
  split_ifs at h; cases h; rfl

theorem readEntry_engineView {max : DWord} {blocking : Bool} {s t : State} (h : readEntry max blocking s = .next t) :
    t.engineView = s.engineView := by
  unfold readEntry at h
  split_ifs at h <;> cases h <;> rfl

theorem hostRegRead_engineView {offset width : Nat} {s t : State} (h : hostRegRead offset width s = .next t) :
    t.engineView = s.engineView := by
  unfold hostRegRead at h
  split_ifs at h
  split at h <;> cases h; rfl

theorem readScan_engineView {c : ReadCtx} {s t : State} (h : readScan c s = .next t) :
    t.engineView = s.engineView := by
  unfold readScan at h
  split_ifs at h <;> cases h <;> rfl

theorem readCopy_engineView {c : ReadCtx} {len i : Nat} {s t : State} (h : readCopy c len i s = .next t) :
    t.engineView = s.engineView := by
  unfold readCopy at h
  split at h
  · cases h
  · split_ifs at h <;> cases h <;>
      simp [State.engineView, State.afterSink_eq, State.spoilChunk_eq, State.setReadPhase, State.endRead, State.returned]

theorem readZero_engineView {c : ReadCtx} {len i : Nat} {s t : State} (h : readZero c len i s = .next t) :
    t.engineView = s.engineView := by
  unfold readZero at h
  split at h
  · cases h
  · split_ifs at h <;> cases h <;> rfl

theorem readWaiting_engineView {c : ReadCtx} {s t : State} (h : readWaiting c s = .next t) :
    t.engineView = s.engineView := by
  unfold readWaiting at h
  split_ifs at h <;> cases h <;> rfl

theorem readerStep_engineView {s t : State} (h : readerStep s = .next t) : t.engineView = s.engineView := by
  unfold readerStep at h
  split at h
  · cases h; rfl
  · split at h
    · exact readScan_engineView h
    · exact readCopy_engineView h
    · exact readZero_engineView h
    · cases h; rfl
    · exact readWaiting_engineView h

theorem ackStep_engineView {s t : State} (h : ackStep s = .next t) : t.engineView = s.engineView := by
  unfold ackStep at h
  split_ifs at h <;> cases h <;> rfl

theorem cancelStep_engineView {s t : State} (h : cancelStep s = .next t) : t.engineView = s.engineView := by
  unfold cancelStep at h
  split at h
  · cases h; rfl
  · split_ifs at h <;> cases h <;> rfl

/-! ### Starting and stopping -/

theorem EngRun.eq_stopped_of_ne_running {r : EngRun} (h : r ≠ .running) : r = .stopped := by
  cases r with
  | stopped => rfl
  | running => exact absurd rfl h

theorem State.writeDmaEn_true_engineView {s : State} (h : s.engRun = .stopped) :
    (s.writeDmaEn true).engineView = s.engineView.startedAt s.dmaPtr := by
  rw [State.writeDmaEn_start h]; rfl

theorem State.writeDmaEn_false_engineView {s : State} (h : s.engRun = .running) :
    (s.writeDmaEn false).engineView = s.engineView.halted := by
  rw [State.writeDmaEn_stop h]; rfl

/-- START writes `PROG_BASE` to `DMA_PTR` before it enables the engine (41 R98). -/
theorem State.launch_engineView {s : State} (h : s.engRun = .stopped) :
    s.launch.engineView = s.engineView.startedAt s.par.progBase := by
  simp only [State.launch, State.storeReg, State.setSynced_engineView]
  rw [State.writeDmaEn_true_engineView (by simpa using h)]
  simp [State.engineView]

theorem start_engineChange {s t : State} (h : start s = .next t) : EngineChange s t (.command .start) := by
  unfold start at h
  split_ifs at h with hr
  · cases h; exact .same rfl
  · cases h
    have hstop := EngRun.eq_stopped_of_ne_running hr
    exact .start hstop (State.launch_engineView hstop)

theorem stop_engineChange {s t : State} (h : stop s = .next t) : EngineChange s t (.command .stop) := by
  cases h
  cases hr : s.engRun with
  | stopped => exact .same (by simp [State.writeDmaEn, hr])
  | running => exact .stop hr (State.writeDmaEn_false_engineView hr)

/-- Only 32-bit accesses are performed (20_memory R39). -/
theorem hostRegWrite_width {offset width : Nat} {value : Word} {s t : State}
    (h : hostRegWrite offset width value s = .next t) : width = 32 := by
  unfold hostRegWrite at h
  split_ifs at h with hok
  simp only [regAccessOk, Bool.not_eq_false, Bool.and_eq_true, beq_iff_eq] at hok
  exact hok.1

theorem writeDmaEn_engineChange (s : State) (on : Bool) (v : Word) :
    EngineChange s (s.writeDmaEn on) (.command (.regWrite s.par.regOff.devCntrl 32 v)) := by
  cases hr : s.engRun <;> cases on
  case stopped.true => exact .rawStart v hr (State.writeDmaEn_true_engineView hr)
  case running.false => exact .rawStop v hr (State.writeDmaEn_false_engineView hr)
  case stopped.false | running.true => exact .same (by simp [State.writeDmaEn, hr])

theorem hostRegWrite_engineChange {offset width : Nat} {value : Word} {s t : State}
    (h : hostRegWrite offset width value s = .next t) :
    EngineChange s t (.command (.regWrite offset width value)) := by
  obtain rfl := hostRegWrite_width h
  obtain ⟨r, hr, rfl⟩ := hostRegWrite_cases h
  obtain rfl := off_of_regAt hr
  cases r
  case devCntrl => exact writeDmaEn_engineChange s _ value
  all_goals exact .same rfl

/-! ### Any turn but the engine's -/

theorem commandStep_engineChange {c : Command} {s t : State} (h : commandStep c s = .next t) :
    EngineChange s t (.command c) := by
  cases c with
  | allocate => exact .same (allocate_engineView h)
  | free => exact .same (free_engineView h)
  | buildCdt => exact .same (buildCdt_engineView h)
  | buildProgram => exact .same (buildProgram_engineView h)
  | start => exact start_engineChange h
  | stop => exact stop_engineChange h
  | openSession => exact .same (openSession_engineView h)
  | read => exact .same (readEntry_engineView h)
  | close => exact .same (close_engineView h)
  | regRead => exact .same (hostRegRead_engineView h)
  | regWrite => exact hostRegWrite_engineChange h

theorem turnStep_engineChange {who : Turn} {s t : State} (h : turnStep who s = .next t) (hw : who ≠ .engine) :
    EngineChange s t who := by
  cases who with
  | engine => exact absurd rfl hw
  | syncWait => cases h; exact .same rfl
  | command c => exact commandStep_engineChange h
  | reader => exact .same (readerStep_engineView h)
  | ack => exact .same (ackStep_engineView h)
  | cancel => exact .same (cancelStep_engineView h)

/-- Neither a start nor a stop touches the counter (10_state R24). -/
theorem EngineChange.gpcnt_eq {s t : State} {who : Turn} (h : EngineChange s t who) : t.gpcnt = s.gpcnt := by
  cases h with
  | same h | start _ h | stop _ h | rawStart _ _ h | rawStop _ _ h => exact congrArg EngineView.gpcnt h

/-- Settles O19: such a turn at most starts or stops the engine, which leaves the counter. -/
theorem onlyTheEngineWritesTheCounter : Obligations.OnlyTheEngineWritesTheCounter := by
  unfold Obligations.OnlyTheEngineWritesTheCounter
  intro s t who h hw
  exact (turnStep_engineChange h hw).gpcnt_eq

/-! ## The engine's program counter is a multiple of 4 (10_state R22, 20_memory R40) -/

/-- `State.EpcAligned`, of the engine alone. -/
def EngineView.EpcAligned (v : EngineView) : Prop :=
  v.par.progBase.toNat % 4 = 0 ∧ (v.engRun = .running → v.epc.toNat % 4 = 0)

theorem State.epcAligned_iff (s : State) : s.EpcAligned ↔ s.engineView.EpcAligned := Iff.rfl

theorem EngineView.EpcAligned.startedAt {v : EngineView} (hv : v.EpcAligned) {a : Word} (ha : a.toNat % 4 = 0) :
    (v.startedAt a).EpcAligned := ⟨hv.1, fun _ => ha⟩

theorem EngineView.EpcAligned.halted {v : EngineView} (hv : v.EpcAligned) : v.halted.EpcAligned := ⟨hv.1, nofun⟩

/-- JUMP's check (40_dma_engine R79) is on the target as a number. -/
theorem targetAligned_iff (target : Word) : targetAligned target = true ↔ target.toNat % 4 = 0 := by
  simp [targetAligned, ← BitVec.toNat_inj]

/-- The 32-bit wrap of `epc` keeps alignment (10_state R22). -/
theorem aligned_add {a b : Word} (ha : a.toNat % 4 = 0) (hb : b.toNat % 4 = 0) : (a + b).toNat % 4 = 0 := by
  rw [BitVec.toNat_add]; omega

theorem exec_epc_aligned {i : Instr} {s t : State} (h : exec i s = .next t) (hs : s.epc.toNat % 4 = 0) :
    t.epc.toNat % 4 = 0 := by
  obtain ⟨-, rfl⟩ | ⟨-, rfl⟩ | ⟨_, _, _, _, _, _, -, -, -, -, rfl⟩ | ⟨target, -, htarget, rfl⟩ := exec_cases h
  · exact aligned_add hs rfl
  · exact aligned_add hs rfl
  · exact hs
  · exact (targetAligned_iff target).1 htarget

theorem writeByteStep_epc_aligned {dst : Word} {done count : Nat} {w0 : Word} {s t : State}
    (h : writeByteStep dst done count w0 s = .next t) (hs : s.epc.toNat % 4 = 0) : t.epc.toNat % 4 = 0 := by
  obtain ⟨-, ⟨-, rfl⟩ | ⟨-, _, -, rfl⟩⟩ := writeByteStep_cases h
  · exact hs
  · exact aligned_add hs rfl

/-- The fields an engine step can change (10_state R34; 40_dma_engine R74 to R78). -/
theorem engineStep_frame {s t : State} (h : engineStep s = .next t) :
    t = { s with mem := t.mem, draws := t.draws, gpcnt := t.gpcnt, irq1Stat := t.irq1Stat, epc := t.epc,
                 engPhase := t.engPhase, synced := t.synced } := by
  obtain ⟨-, rfl⟩ | ⟨-, -, _, _, -, he⟩ | ⟨-, _, _, _, _, -, hw⟩ := engineStep_cases h
  · rfl
  · obtain ⟨-, rfl⟩ | ⟨-, rfl⟩ | ⟨_, _, _, _, _, _, -, -, -, -, rfl⟩ | ⟨_, -, -, rfl⟩ := exec_cases he <;> rfl
  · obtain ⟨-, ⟨-, rfl⟩ | ⟨-, _, -, rfl⟩⟩ := writeByteStep_cases hw <;> rfl

theorem engineStep_keeps_epcAligned {s t : State} (h : engineStep s = .next t) (hs : s.EpcAligned) :
    t.EpcAligned := by
  obtain ⟨hbase, hepc⟩ := hs
  refine ⟨by rw [engineStep_frame h]; exact hbase, fun _ => ?_⟩
  obtain ⟨hr, rfl⟩ | ⟨hr, -, _, _, -, he⟩ | ⟨hr, _, _, _, _, -, hw⟩ := engineStep_cases h
  · exact hepc ‹_›
  · exact exec_epc_aligned he (hepc hr)
  · exact writeByteStep_epc_aligned hw (hepc hr)

theorem turnStep_keeps_epcAligned {who : Turn} {s t : State} (h : turnStep who s = .next t) (hs : s.EpcAligned)
    (hraw : s.engRun = .stopped → t.engRun = .running → who ≠ .command .start → s.dmaPtr.toNat % 4 = 0) :
    t.EpcAligned := by
  by_cases hw : who = .engine
  · subst hw; exact engineStep_keeps_epcAligned h hs
  · rw [State.epcAligned_iff] at hs ⊢
    cases turnStep_engineChange h hw with
    | same ht => rwa [ht]
    | start _ ht => rw [ht]; exact hs.startedAt hs.1
    | stop _ ht | rawStop _ _ ht => rw [ht]; exact hs.halted
    | rawStart _ hr ht =>
      rw [ht]
      exact hs.startedAt (hraw hr (congrArg EngineView.engRun ht) nofun)

/-- Settles O22: the engine's own steps add 4 or 8 or jump to a checked target, START loads `PROG_BASE`, and the host's
own start loads the `DMA_PTR` the premise is about. -/
theorem everyStepKeepsEpcAligned : Obligations.EveryStepKeepsEpcAligned := by
  unfold Obligations.EveryStepKeepsEpcAligned
  intro s t hs h hraw
  exact turnStep_keeps_epcAligned h hs fun hstop hrun hwho => hraw ⟨hstop, hrun, hwho⟩

/-- Settles O18, by the frame of the engine's step. -/
theorem engineReachesNoRegister : Obligations.EngineReachesNoRegister := by
  unfold Obligations.EngineReachesNoRegister
  exact fun _ _ => engineStep_frame

/-! ## The host's read of a register (10_state R30) -/

theorem mem_regAll (r : Reg) : r ∈ Reg.all := by cases r <;> decide

/-- Admissible registers have one offset each, so an offset names its register (00_scope R8). -/
theorem regAt_off {p : Params} (hp : p.Admissible) (r : Reg) : regAt p (p.regOff.off r) = some r := by
  obtain ⟨-, -, -, -, -, -, -, -, -, -, -, hnodup⟩ := hp
  cases hfound : regAt p (p.regOff.off r) with
  | none => exact absurd (List.find?_eq_none.1 hfound r (mem_regAll r)) (by simp)
  | some r' => exact congrArg some (List.inj_on_of_nodup_map hnodup (mem_regAll r') (mem_regAll r) (off_of_regAt hfound))

theorem regAccessOk_off {p : Params} (hp : p.Admissible) (r : Reg) : regAccessOk (p.regOff.off r) 32 = true := by
  obtain ⟨-, -, -, -, -, -, -, -, -, -, haligned, -⟩ := hp
  simp [regAccessOk, haligned r (mem_regAll r)]

theorem hostRegRead_off {s : State} (hp : s.par.Admissible) (r : Reg) :
    hostRegRead (s.par.regOff.off r) 32 s =
      .next (s.afterFree.setRegReads (s.regReads ++ [s.regValue (Config.freeWord s.draws.taken) r])) := by
  simp [hostRegRead, regAccessOk_off hp, regAt_off hp]

/-- Settles O58: the value recorded is `regValue`, which has a field at its bit and a whole register as it is. -/
theorem regReadReturnsTheRegister : Obligations.RegReadReturnsTheRegister := by
  unfold Obligations.RegReadReturnsTheRegister
  intro s r hp
  refine ⟨_, s.regValue (Config.freeWord s.draws.taken) r, hostRegRead_off hp r, rfl, ?_⟩
  refine ⟨?_, ?_, ?_, ?_, ?_, ?_, ?_, ?_⟩ <;> rintro rfl
  · exact fieldAmong_getLsbD _ s.dmaEn _
  · exact fieldAmong_getLsbD _ s.vidEn _
  · exact fieldAmong_getLsbD _ s.irq1En _
  · exact fieldAmong_getLsbD _ s.irq1Stat _
  · rfl
  · rfl
  · rfl
  · exact BitVec.toNat_setWidth_of_le (by decide)

/-! ## Reset and the acknowledger (70_reset R138, 60_exceptions R126) -/

theorem engineStep_of_stopped {s : State} (h : s.engRun = .stopped) : engineStep s = .next s := by
  simp only [engineStep, h]

/-- Settles O30: a disabled mask holds the line down and a stopped engine has no step. -/
theorem resetIsAsTheSpecSays : Obligations.ResetIsAsTheSpecSays := by
  unfold Obligations.ResetIsAsTheSpecSays
  refine ⟨by decide, fun s hs => ?_⟩
  obtain ⟨hrun, -, -, -, -, -, -, -, -, hvid, -, -⟩ := hs
  exact ⟨by simp [State.irqLine, hvid], engineStep_of_stopped hrun⟩

/-- The line is up where both masks and the request are (10_state R32). -/
theorem State.irqLine_iff (s : State) :
    s.irqLine = true ↔ s.vidEn = true ∧ s.irq1En = true ∧ s.irq1Stat = true := by
  simp [State.irqLine, and_assoc]

theorem ackStep_of_line_up {s : State} (h : s.irqLine = true) :
    ackStep s = .next { s with irq1Stat := false, dataReady := true } := by
  obtain ⟨-, -, hstat⟩ := s.irqLine_iff.1 h
  simp [ackStep, h, hstat, State.setIrq1Stat, State.setDataReady]

theorem ackStep_of_line_down {s : State} (h : s.irqLine = false) : ackStep s = .next s := by
  simp [ackStep, h]

/-- Settles O56, by the state of the line. -/
theorem acknowledgeOutcomes : Obligations.AcknowledgeOutcomes := by
  unfold Obligations.AcknowledgeOutcomes
  intro s
  constructor
  · intro hvid hirq hstat
    exact ackStep_of_line_up (s.irqLine_iff.2 ⟨hvid, hirq, hstat⟩)
  · intro hdown
    refine ackStep_of_line_down (Bool.eq_false_iff.2 fun hup => ?_)
    obtain ⟨hvid, hirq, hstat⟩ := s.irqLine_iff.1 hup
    simp [hvid, hirq, hstat] at hdown

end Sys2Proof.Machine

/-! # Host memory (20_memory): who may touch which bytes, and what each access does -/

namespace Sys2Proof.Machine

open Sys2Proof

/-! ## The pages are apart from the program buffer and the descriptor table (00_scope R8, 20_memory R45) -/

/-- What 00_scope R8 says of one page, as propositions. -/
theorem page_placed_of_admissible {p : Params} (hp : p.Admissible) {b : Word} (hb : b ∈ p.pageBases) :
    b.toNat % p.pageSize = 0 ∧ b.toNat + p.pageSize ≤ addressSpace ∧
      Apart b.toNat p.pageSize p.progBase.toNat p.progBufSize ∧
      Apart b.toNat p.pageSize p.cdtBase.toNat p.cdtBytes := by
  obtain ⟨-, -, -, -, -, -, -, -, hplaced, -⟩ := hp
  simpa [Params.pagePlaced] using List.all_eq_true.1 hplaced b hb

/-- An address of the program buffer or of the descriptor table. -/
def ProgramOrTable (p : Params) (a : Nat) : Prop :=
  p.progBase.toNat ≤ a ∧ a < p.progBase.toNat + p.progBufSize ∨
    p.cdtBase.toNat ≤ a ∧ a < p.cdtBase.toNat + p.cdtBytes

theorem pageCovers_of_programOrTable {p : Params} (hp : p.Admissible) {a : Nat} (ha : ProgramOrTable p a) :
    pageCovers p a 1 = false := by
  refine Bool.eq_false_iff.2 fun hcov => ?_
  simp only [pageCovers, Bool.and_eq_true, List.any_eq_true, decide_eq_true_eq] at hcov
  obtain ⟨⟨b, hb, hlo, hhi⟩, -⟩ := hcov
  obtain ⟨-, -, hprog, hcdt⟩ := page_placed_of_admissible hp hb
  unfold ProgramOrTable at ha
  omega

/-- A byte written inside a page of an allocated pool is no byte of the program buffer or the table. -/
theorem read_pageByte {s : State} (hp : s.par.Admissible) (hm : s.MemOk) {a x : Nat} {v : Byte}
    (ha : s.insidePage a 1 = true) (hx : ProgramOrTable s.par x) : (s.mem.write a v).read x = s.mem.read x := by
  refine Memory.read_write_other hm ?_ v
  rintro rfl
  simp [State.insidePage, pageCovers_of_programOrTable hp hx] at ha

/-- With the engine running a step at most writes one byte of a page. -/
theorem MemChange.read_of_running {s : State} {m : Memory} (h : MemChange s m) (hp : s.par.Admissible)
    (hm : s.MemOk) (hr : s.engRun = .running) {x : Nat} (hx : ProgramOrTable s.par x) : m.read x = s.mem.read x := by
  cases h with
  | same => rfl
  | pageByte a b ha => exact read_pageByte hp hm ha hx
  | fill _ hstop | table hstop _ | program hstop _ _ => simp [hr] at hstop

/-- Settles O27: of the changes `turnStep_mem` lists, a running engine's state admits only a page's byte. -/
theorem programAndTableAreImmutableWhileRunning : Obligations.ProgramAndTableAreImmutableWhileRunning := by
  unfold Obligations.ProgramAndTableAreImmutableWhileRunning
  intro s t hp hm hr h a ha
  exact (turnStep_mem h).read_of_running hp hm hr ha

/-! ## Refused accesses (20_memory R39, 41 R97) -/

/-- Settles O60: both accesses make the same check first. -/
theorem misalignedRegisterAccessIsRefused : Obligations.MisalignedRegisterAccessIsRefused := by
  unfold Obligations.MisalignedRegisterAccessIsRefused
  intro s offset width v hbad
  have hnot : regAccessOk offset width = false := by
    simp only [regAccessOk, Bool.and_eq_false_iff, beq_eq_false_iff_ne]
    exact hbad
  exact ⟨if_pos hnot, if_pos hnot⟩

/-- Settles O34: the engine's run is the first check of each of the three. -/
theorem buildsWhileRunningAreRefused : Obligations.BuildsWhileRunningAreRefused := by
  unfold Obligations.BuildsWhileRunningAreRefused
  rintro s c hr (rfl | rfl | ⟨capacity, pageSize, rfl⟩) <;> exact if_pos hr

/-! ## The fetch outside the program buffer (20_memory R40, R45) -/

theorem engineStep_of_atFetch {s : State} (hr : s.engRun = .running) (hp : s.engPhase = .atFetch) :
    engineStep s = fetchStep s := by
  simp only [engineStep, hr, hp]

theorem State.fetchable_eq_false {s : State} {a : Nat} (h : a % 4 ≠ 0 ∨ s.insideProgram a 4 = false) :
    s.fetchable a = false := by
  simpa [State.fetchable, ← imp_iff_not_or] using h

theorem State.fetchWordBytes_of_not_fetchable {s : State} {a : Nat} (h : s.fetchable a = false) :
    s.fetchWordBytes a = [] := by
  simp [State.fetchWordBytes, h]

/-- Without the control word there is nothing to decode. -/
theorem decode_fetchBytes_of_not_fetchable {s : State} (h : s.fetchable s.epc.toNat = false) :
    decode s.fetchBytes = .error .short := by
  simp [State.fetchBytes, State.fetchWordBytes_of_not_fetchable h, decode, takeWord]

/-- A two-word instruction without its second word (30_encoding R61). -/
theorem decode_short_of_one_word {bytes : List Byte} {w0 : Word} {c : Control}
    (hword : takeWord bytes = some (w0, [])) (hc : decodeControl w0 = .ok c) (hsync : ∀ cnt, c ≠ .sync cnt) :
    decode bytes = .error .short := by
  cases c with
  | sync cnt => exact absurd rfl (hsync cnt)
  | write | jump => simp only [decode, hword, hc]; rfl

theorem fetchStep_of_short {s : State} (h : decode s.fetchBytes = .error .short) :
    fetchStep s = .fault (if s.epc.toNat % 4 = 0 then .fetchOutsideProgram s.epc else .misalignedFetch s.epc) := by
  simp only [fetchStep, h]

/-- Settles O9: the bytes the engine can read end before the instruction does. -/
theorem fetchOutsideTheProgramIsStuck : Obligations.FetchOutsideTheProgramIsStuck := by
  unfold Obligations.FetchOutsideTheProgramIsStuck
  intro s hr hp
  have hturn : ∀ {f}, decode s.fetchBytes = .error .short →
      (if s.epc.toNat % 4 = 0 then .fetchOutsideProgram s.epc else .misalignedFetch s.epc) = f →
      turnStep .engine s = .fault f := by
    rintro f hshort rfl
    exact (engineStep_of_atFetch hr hp).trans (fetchStep_of_short hshort)
  refine ⟨fun hal => ?_, fun hal hout => ?_, fun hal hin hout ⟨c, hc, hsync⟩ => ?_⟩
  · exact hturn (decode_fetchBytes_of_not_fetchable (State.fetchable_eq_false (.inl hal))) (if_neg hal)
  · exact hturn (decode_fetchBytes_of_not_fetchable (State.fetchable_eq_false (.inr hout))) (if_pos hal)
  · have hword := State.takeWord_fetchBytes ((s.fetchable_iff _).2 ⟨hal, hin⟩)
    rw [State.fetchWordBytes_of_not_fetchable (State.fetchable_eq_false (.inr hout))] at hword
    exact hturn (decode_short_of_one_word hword hc hsync) (if_pos hal)

/-! ## A WRITE's checks (40 R75, 20_memory R45) -/

theorem crossesTop_iff (dst : Word) (count : Nat) : crossesTop dst count = true ↔ addressSpace < dst.toNat + count := by
  simp [crossesTop]

/-- Settles O12: the checks in R75's order. -/
theorem writeRefusedOrStuck : Obligations.WriteRefusedOrStuck := by
  unfold Obligations.WriteRefusedOrStuck
  intro s sol eol irq1 cnt count dst
  refine ⟨?_, fun hc htop => ?_, fun hc hfit hpage => ?_⟩
  · rintro rfl
    rfl
  · exact (if_neg hc).trans (if_pos ((crossesTop_iff _ _).2 htop))
  · have htop : ¬ crossesTop dst count.toNat = true := by rw [crossesTop_iff]; exact Nat.not_lt.2 hfit
    have hout : ¬ s.insidePage dst.toNat count.toNat = true := by
      rw [State.insidePage_iff]
      rintro ⟨hpool, ⟨b, hb, hlo, hhi⟩, -⟩
      rcases hpage with hun | hall
      · simp [hpool] at hun
      · have := hall b hb; omega
    exact (if_neg hc).trans ((if_neg htop).trans (if_neg hout))

/-! ## A WRITE's bytes (20_memory R42, R44; 40 R75) -/

theorem State.sampleAhead_zero (s : State) : s.sampleAhead 0 = s.nextSample := by
  cases h : s.draws.samples <;> simp [State.sampleAhead, State.nextSample, h]

theorem State.afterSample_draws (s : State) :
    s.afterSample.draws = { s.draws with
      samples := s.draws.samples.drop 1, taken := s.draws.taken + (1 - s.draws.samples.length) } := by
  rw [State.afterSample_eq]

@[simp] theorem State.landSample_mem (s : State) (a : Nat) : (s.landSample a).mem = s.mem.write a s.nextSample := rfl

theorem State.landSample_draws (s : State) (a : Nat) : (s.landSample a).draws = s.afterSample.draws := rfl

/-- One byte landed, the stream is one byte further. -/
theorem State.sampleAhead_landSample (s : State) (a k : Nat) :
    (s.landSample a).sampleAhead k = s.sampleAhead (k + 1) := by
  cases h : s.draws.samples with
  | nil => simp [State.sampleAhead, State.landSample_draws, State.afterSample_draws, h, Nat.add_assoc, Nat.add_comm 1]
  | cons b bs => simp [State.sampleAhead, State.landSample_draws, State.afterSample_draws, h]

theorem engineStep_of_inWrite {s : State} {dst : Word} {done count : Nat} {w0 : Word} (hr : s.engRun = .running)
    (hp : s.engPhase = .inWrite dst done count w0) : engineStep s = writeByteStep dst done count w0 s := by
  simp only [engineStep, hr, hp]

theorem writeByteStep_of_not_last {s : State} {dst : Word} {done count : Nat} {w0 : Word}
    (hpage : s.insidePage (dst.toNat + done) 1 = true) (hlast : done + 1 ≠ count) :
    writeByteStep dst done count w0 s =
      .next ((s.landSample (dst.toNat + done)).setEngPhase (.inWrite dst (done + 1) count w0)) :=
  (if_pos hpage).trans (if_neg hlast)

theorem writeByteStep_of_last {s : State} {dst : Word} {done : Nat} {w0 : Word}
    (hpage : s.insidePage (dst.toNat + done) 1 = true) :
    writeByteStep dst done (done + 1) w0 s = finishWrite w0 (s.landSample (dst.toNat + done)) :=
  (if_pos hpage).trans (if_pos rfl)

/-- Settles O15, by one byte landed. -/
theorem writeByteLands : Obligations.WriteByteLands := by
  unfold Obligations.WriteByteLands
  intro s dst done count w0 hm hr hp hlast hpage
  refine ⟨_, (engineStep_of_inWrite hr hp).trans (writeByteStep_of_not_last hpage hlast), ?_, ?_, ?_, ?_⟩
  · rw [State.landSample_eq]; rfl
  · rw [State.sampleAhead_zero]; exact Memory.read_write_same hm _ _
  · exact fun a ha => Memory.read_write_other hm ha _
  · exact s.afterSample_draws

/-! ## A whole WRITE (20_memory R44, R49; 40 R75) -/

/-- The next `n` samples landed at `a` and above it, in ascending order. -/
def State.landSamples (s : State) (a : Nat) : Nat → State
  | 0 => s
  | n + 1 => (s.landSamples a n).landSample (a + n)

/-- Landing samples writes memory and consumes draws; nothing else changes. -/
theorem State.landSamples_frame (s : State) (a n : Nat) :
    s.landSamples a n = { s with mem := (s.landSamples a n).mem, draws := (s.landSamples a n).draws } := by
  obtain ⟨m, d, h⟩ : ∃ m d, s.landSamples a n = { s with mem := m, draws := d } := by
    induction n with
    | zero => exact ⟨s.mem, s.draws, rfl⟩
    | succ n ih =>
      obtain ⟨m, d, h⟩ := ih
      exact ⟨_, _, by rw [State.landSamples, h, State.landSample_eq]⟩
  rw [h]

theorem State.landSamples_draws (s : State) (a n : Nat) :
    (s.landSamples a n).draws = { s.draws with
      samples := s.draws.samples.drop n, taken := s.draws.taken + (n - s.draws.samples.length) } := by
  induction n with
  | zero => simp [State.landSamples]
  | succ n ih =>
    have htaken : n - s.draws.samples.length + (1 - (s.draws.samples.length - n)) =
        n + 1 - s.draws.samples.length := by omega
    simp [State.landSamples, State.landSample_draws, State.afterSample_draws, ih, Nat.add_assoc, htaken]

/-- `n` bytes landed, the stream is `n` bytes further. -/
theorem State.landSamples_nextSample (s : State) (a n : Nat) : (s.landSamples a n).nextSample = s.sampleAhead n := by
  rw [← State.sampleAhead_zero]
  simp only [State.sampleAhead, State.landSamples_draws, List.getElem?_drop, Nat.add_zero, List.length_drop]
  cases h : s.draws.samples[n]? with
  | some b => rfl
  | none =>
    have : s.draws.samples.length ≤ n := List.getElem?_eq_none_iff.1 h
    simp [Nat.sub_eq_zero_of_le this]

theorem State.landSamples_memOk {s : State} (hm : s.MemOk) {a n : Nat} (hfit : a + n ≤ addressSpace) :
    (s.landSamples a n).MemOk := by
  induction n with
  | zero => exact hm
  | succ n ih => exact Memory.wf_write (ih (by omega)) (by omega) _

theorem State.landSamples_read {s : State} (hm : s.MemOk) {a n : Nat} (hfit : a + n ≤ addressSpace) (x : Nat) :
    (s.landSamples a n).mem.read x = if a ≤ x ∧ x < a + n then s.sampleAhead (x - a) else s.mem.read x := by
  induction n with
  | zero => rw [if_neg (by omega)]; rfl
  | succ n ih =>
    rw [State.landSamples, State.landSample_mem, Memory.read_write (State.landSamples_memOk hm (by omega)),
      State.landSamples_nextSample, ih (by omega)]
    by_cases hx : x = a + n
    · subst hx; simp
    · have hiff : (a ≤ x ∧ x < a + (n + 1)) ↔ (a ≤ x ∧ x < a + n) := by omega
      simp only [hx, if_false, hiff]

/-- The phase does not matter to a sample's landing. -/
theorem State.landSample_setEngPhase (s : State) (ph : EngPhase) (a : Nat) :
    (s.setEngPhase ph).landSample a = (s.landSample a).setEngPhase ph := by
  simp only [State.landSample_eq, State.afterSample_eq]
  rfl

theorem engineSteps_succ_of_next {s t : State} {n : Nat} (h : engineSteps n s = .next t) :
    engineSteps (n + 1) s = engineStep t := by
  induction n generalizing s with
  | zero =>
    cases h
    rw [engineSteps]
    cases engineStep t <;> rfl
  | succ n ih =>
    rw [engineSteps] at h ⊢
    cases hs : engineStep s with
    | next u => simp only [hs] at h ⊢; exact ih h
    | fault r => simp [hs] at h
    | refused r => simp [hs] at h

/-- The state of a WRITE of which `k` bytes have landed. -/
def State.midWrite (s : State) (dst : Word) (count : Nat) (w0 : Word) (k : Nat) : State :=
  (s.landSamples dst.toNat k).setEngPhase (.inWrite dst k count w0)

section

variable {s : State} {dst : Word} {count : Nat} {w0 : Word}

theorem State.midWrite_frame (s : State) (dst : Word) (count : Nat) (w0 : Word) (k : Nat) :
    s.midWrite dst count w0 k = { s with
      mem := (s.landSamples dst.toNat k).mem, draws := (s.landSamples dst.toNat k).draws,
      engPhase := .inWrite dst k count w0 } := by
  rw [State.midWrite, State.landSamples_frame]; rfl

/-- Every byte of a transfer is the engine's to write (20_memory R45). -/
theorem State.midWrite_insidePage (hpage : s.insidePage dst.toNat count = true) {k : Nat} (hk : k < count) :
    (s.midWrite dst count w0 k).insidePage (dst.toNat + k) 1 = true := by
  rw [State.midWrite_frame]
  exact State.insidePage_part (s := s) hpage (by omega) (by omega)

theorem engineStep_midWrite (hr : s.engRun = .running) (k : Nat) :
    engineStep (s.midWrite dst count w0 k) = writeByteStep dst k count w0 (s.midWrite dst count w0 k) :=
  engineStep_of_inWrite (by rw [State.midWrite_frame]; exact hr) rfl

/-- Before the last byte the samples land one by one, and nothing else happens (R49). -/
theorem engineSteps_of_lt (hr : s.engRun = .running) (hp : s.engPhase = .inWrite dst 0 count w0)
    (hpage : s.insidePage dst.toNat count = true) {k : Nat} (hk : k < count) :
    engineSteps k s = .next (s.midWrite dst count w0 k) := by
  induction k with
  | zero => rw [State.midWrite_frame, ← hp]; rfl
  | succ k ih =>
    rw [engineSteps_succ_of_next (ih (by omega)), engineStep_midWrite hr,
      writeByteStep_of_not_last (State.midWrite_insidePage hpage (by omega)) (by omega),
      State.midWrite, State.landSample_setEngPhase]
    rfl

/-- The last byte lands and the WRITE ends. -/
theorem engineSteps_count (hr : s.engRun = .running) (hp : s.engPhase = .inWrite dst 0 count w0)
    (hpage : s.insidePage dst.toNat count = true) (hpos : 0 < count) :
    engineSteps count s =
      finishWrite w0 ((s.landSamples dst.toNat count).setEngPhase (.inWrite dst (count - 1) count w0)) := by
  obtain ⟨k, rfl⟩ : ∃ k, count = k + 1 := ⟨count - 1, by omega⟩
  rw [engineSteps_succ_of_next (engineSteps_of_lt hr hp hpage (by omega)), engineStep_midWrite hr,
    writeByteStep_of_last (State.midWrite_insidePage hpage (by omega)), State.midWrite, State.landSample_setEngPhase]
  rfl

end

theorem finishWrite_writeWord (sol eol irq1 : Bool) (cnt : WriteCnt) (count : BitVec 12) (s : State) :
    finishWrite (writeWord sol eol irq1 cnt count) s =
      .next { s with gpcnt := countedGpcnt s.par.lastCnt cnt s.gpcnt, irq1Stat := s.irq1Stat || irq1,
                     epc := s.epc + 8#32, engPhase := .atFetch } := by
  simp only [finishWrite, fieldCnt_writeWord, writeCntOfBits_writeCntBits, fieldIrq1_writeWord]
  rfl

/-- Settles O17, by the states between two bytes and the reads of the samples landed. -/
theorem writeLandsAllItsBytes : Obligations.WriteLandsAllItsBytes := by
  unfold Obligations.WriteLandsAllItsBytes
  intro s dst sol eol irq1 cnt count hm hr hcount hp hpage
  have hpos : 0 < count.toNat := Nat.pos_of_ne_zero fun h => hcount (BitVec.eq_of_toNat_eq h)
  obtain ⟨-, -, hfit⟩ := (s.insidePage_iff _ _).1 hpage
  refine ⟨fun k hk => ?_, _, (engineSteps_count hr hp hpage hpos).trans (finishWrite_writeWord ..), ?_, ?_, ?_, ?_⟩
  · refine ⟨_, engineSteps_of_lt hr hp hpage hk, ?_⟩
    rw [State.midWrite_frame]
    exact ⟨rfl, rfl, rfl⟩
  · rw [State.landSamples_frame]; rfl
  · intro k hk
    refine (State.landSamples_read hm hfit _).trans ?_
    rw [if_pos (by omega), Nat.add_sub_cancel_left]
  · intro a ha
    exact (State.landSamples_read hm hfit a).trans (if_neg (by omega))
  · exact s.landSamples_draws dst.toNat count.toNat

/-! ## The reader's accesses (20_memory R45, 42 R107 to R109) -/

theorem numPages_pos {p : Params} (hp : p.Admissible) : 0 < p.numPages := by
  obtain ⟨-, hring, -⟩ := hp
  simp only [ringSizeOk, isPow2UpTo, List.any_eq_true, beq_iff_eq] at hring
  obtain ⟨e, -, he⟩ := hring
  rw [← he]; positivity

/-- A byte of a chunk that fits the current page is in that page (42 R103, R107). -/
theorem State.readableAddr_of_fits {s : State} (hp : s.par.Admissible) (hpool : s.pool = .allocated) {i : Nat}
    (hi : i + s.pageOffset < s.par.pageSize) : ∃ a, s.readableAddr i = some a := by
  have hcur : s.currentPage < s.par.pageBases.length := Nat.mod_lt _ (numPages_pos hp)
  obtain ⟨b, hb⟩ : ∃ b, s.par.pageBases[s.currentPage]? = some b := ⟨_, List.getElem?_eq_getElem hcur⟩
  have hmem := List.mem_of_getElem? hb
  obtain ⟨-, hend, -, -⟩ := page_placed_of_admissible hp hmem
  have hin : s.insidePage (b.toNat + s.pageOffset + i) 1 = true :=
    (s.insidePage_iff _ _).2 ⟨hpool, ⟨b, hmem, by omega, by omega⟩, by omega⟩
  exact ⟨b.toNat + s.pageOffset + i, by simp only [State.readableAddr, State.chunkAddr, hb, hin, if_true]⟩

theorem readScan_next (c : ReadCtx) (s : State) : ∃ t, readScan c s = .next t := by
  unfold readScan
  split_ifs <;> exact ⟨_, rfl⟩

theorem readCopy_next {c : ReadCtx} {len i a : Nat} {s : State} (ha : s.readableAddr i = some a) :
    ∃ t, readCopy c len i s = .next t := by
  simp only [readCopy, ha]
  split_ifs <;> exact ⟨_, rfl⟩

theorem readZero_next {c : ReadCtx} {len i a : Nat} {s : State} (ha : s.readableAddr i = some a) :
    ∃ t, readZero c len i s = .next t := by
  simp only [readZero, ha]
  split_ifs <;> exact ⟨_, rfl⟩

theorem readWaiting_next (c : ReadCtx) (s : State) : ∃ t, readWaiting c s = .next t := by
  unfold readWaiting
  split_ifs <;> exact ⟨_, rfl⟩

/-- Settles O54: the invariant puts every byte of a chunk inside the current page of an allocated pool. -/
theorem theReaderIsNeverStuck : Obligations.TheReaderIsNeverStuck := by
  unfold Obligations.TheReaderIsNeverStuck
  intro s ⟨hp, hsess, hread⟩
  simp only [turnStep, readerStep]
  cases hctx : s.rdCtx with
  | none => exact ⟨s, rfl⟩
  | some c =>
    dsimp only
    obtain ⟨hopen, -, -, -, hphase⟩ := hread c hctx
    obtain ⟨hpool, -⟩ := hsess hopen
    cases hph : c.phase with
    | scan => exact readScan_next c s
    | copy len i =>
      rw [hph] at hphase
      obtain ⟨hi, hfits, -⟩ := hphase
      obtain ⟨a, ha⟩ := State.readableAddr_of_fits hp hpool (i := i) (by omega)
      exact readCopy_next ha
    | zero len i =>
      rw [hph] at hphase
      obtain ⟨hi, hfits, -⟩ := hphase
      obtain ⟨a, ha⟩ := State.readableAddr_of_fits hp hpool (i := i) (by omega)
      exact readZero_next ha
    | resample => exact ⟨_, rfl⟩
    | waiting => exact readWaiting_next c s

/-! # The generated program stands in memory and the engine runs it (20_memory R54; 40 R81, R82) -/

/-! ## Words in memory (20_memory R37) -/

@[simp] theorem Memory.readWords_length (m : Memory) (a n : Nat) : (m.readWords a n).length = n := by
  induction n generalizing a with
  | zero => rfl
  | succ n ih => rw [Memory.readWords, List.length_cons, ih]

theorem Memory.readWords_add (m : Memory) (a n k : Nat) :
    m.readWords a (n + k) = m.readWords a n ++ m.readWords (a + 4 * n) k := by
  induction n generalizing a with
  | zero => simp [Memory.readWords]
  | succ n ih =>
    rw [Nat.succ_add, Memory.readWords, ih, Memory.readWords, List.cons_append]
    congr 3
    omega

theorem Memory.readWord_congr {m m' : Memory} {a : Nat} (h : ∀ x, a ≤ x → x < a + 4 → m.read x = m'.read x) :
    m.readWord a = m'.readWord a := by
  simp only [Memory.readWord]
  rw [h a (by omega) (by omega), h (a + 1) (by omega) (by omega), h (a + 2) (by omega) (by omega),
    h (a + 3) (by omega) (by omega)]

/-- Words of the same bytes are the same. -/
theorem Memory.readWords_congr {m m' : Memory} {a n : Nat}
    (h : ∀ x, a ≤ x → x < a + 4 * n → m.read x = m'.read x) : m.readWords a n = m'.readWords a n := by
  induction n generalizing a with
  | zero => rfl
  | succ n ih =>
    rw [Memory.readWords, Memory.readWords, Memory.readWord_congr fun x hlo hhi => h x hlo (by omega),
      ih fun x hlo hhi => h x (by omega) (by omega)]

theorem Memory.read_writeWords_of_outside {m : Memory} (hm : m.wf = true) {a : Nat} {ws : List Word}
    (hfit : a + 4 * ws.length ≤ addressSpace) {x : Nat} (hx : x < a ∨ a + 4 * ws.length ≤ x) :
    (m.writeWords a ws).read x = m.read x := by
  rw [Memory.writeWords, Memory.read_writeBytes hm (by simpa using hfit)]
  split
  next hle =>
    have hlen : (bytesOfWords ws).length ≤ x - a := by rw [bytesOfWords_length]; omega
    rw [List.getElem?_eq_none hlen, Option.getD_none]
  next => rfl

theorem Memory.writeWords_cons (m : Memory) (a : Nat) (w : Word) (ws : List Word) :
    m.writeWords a (w :: ws) = (m.writeBytes a (bytesOfWord w)).writeWords (a + 4) ws := rfl

theorem Memory.readWord_writeBytes {m : Memory} (hm : m.wf = true) {a : Nat} (hfit : a + 4 ≤ addressSpace)
    (w : Word) : (m.writeBytes a (bytesOfWord w)).readWord a = w := by
  simp only [Memory.readWord, Memory.read_writeBytes (bs := bytesOfWord w) hm hfit]
  simpa [bytesOfWord] using wordOfBytes_bytesOfWord w

/-- Words read back as they were written. -/
theorem Memory.readWords_writeWords {m : Memory} (hm : m.wf = true) {a : Nat} {ws : List Word}
    (hfit : a + 4 * ws.length ≤ addressSpace) : (m.writeWords a ws).readWords a ws.length = ws := by
  induction ws generalizing m a with
  | nil => rfl
  | cons w ws ih =>
    rw [List.length_cons] at hfit
    have hm' : (m.writeBytes a (bytesOfWord w)).wf = true := Memory.wf_writeBytes hm (by simp; omega)
    have hfirst : ((m.writeBytes a (bytesOfWord w)).writeWords (a + 4) ws).readWord a = w :=
      (Memory.readWord_congr fun x _ hx =>
        Memory.read_writeWords_of_outside hm' (by omega) (.inl hx)).trans (Memory.readWord_writeBytes hm (by omega) w)
    rw [Memory.writeWords_cons, List.length_cons, Memory.readWords, hfirst, ih hm' (by omega)]

/-! ## The instructions of the generated program (41 R89 to R93) -/

/-- The counter control of the `w`-th WRITE of a program of `n` pages: none on a page's low half, one count on its
high half, the last tag on the last (41 R91, R92). -/
def programCnt (n w : Nat) : WriteCnt :=
  if w % 2 = 0 then .none else if w + 1 = 2 * n then .last else .inc

theorem pageInstrs_length (p : Params) (irqt : Nat) (bases : List Word) :
    (pageInstrs p irqt bases).length = 2 * bases.length := by
  induction bases generalizing irqt with
  | nil => rfl
  | cons b rest ih => simp [pageInstrs, ih]; omega

theorem pageInstrs_getElem? (p : Params) (irqt : Nat) (bases : List Word) {w : Nat} (hw : w < 2 * bases.length) :
    ∃ irq1 dst, (pageInstrs p irqt bases)[w]? =
      some (.write true true irq1 (programCnt bases.length w) (clusterCount p) dst) := by
  induction bases generalizing irqt w with
  | nil => simp at hw
  | cons b rest ih =>
    match w with
    | 0 => exact ⟨_, _, rfl⟩
    | 1 =>
      have hcnt : programCnt (b :: rest).length 1 = if rest.isEmpty then .last else .inc := by
        cases rest <;> simp [programCnt]
      exact ⟨_, _, by rw [hcnt]; rfl⟩
    | w + 2 =>
      obtain ⟨irq1, dst, h⟩ := ih ((irqt + 1) % p.irqPeriod) (w := w) (by simp at hw; omega)
      have hcnt : programCnt (b :: rest).length (w + 2) = programCnt rest.length w := by
        have hlast : w + 2 + 1 = 2 * (rest.length + 1) ↔ w + 1 = 2 * rest.length := by omega
        simp only [programCnt, List.length_cons, Nat.add_mod_right, hlast]
      exact ⟨irq1, dst, by rw [hcnt, ← h]; rfl⟩

/-- The program's instruction behind `w` others past the SYNC: a WRITE of `CS` bytes, or the JUMP after the last. -/
theorem programInstrs_getElem?_write {p : Params} {w : Nat} (hw : w < 2 * p.numPages) :
    ∃ irq1 dst, (programInstrs p)[w + 1]? =
      some (.write true true irq1 (programCnt p.numPages w) (clusterCount p) dst) := by
  obtain ⟨irq1, dst, h⟩ := pageInstrs_getElem? p 0 p.pageBases hw
  refine ⟨irq1, dst, ?_⟩
  rw [programInstrs, List.getElem?_cons_succ, List.getElem?_append_left (by rwa [pageInstrs_length])]
  exact h

theorem programInstrs_getElem?_jump (p : Params) :
    (programInstrs p)[2 * p.numPages + 1]? = some (.jump (p.progBase + 4#32)) := by
  rw [programInstrs, List.getElem?_cons_succ, List.getElem?_append_right (by rw [pageInstrs_length, Params.numPages]),
    pageInstrs_length, Params.numPages, Nat.sub_self]
  rfl

/-- A cluster is a WRITE's worth of bytes (00_scope R8, 30_encoding R64). -/
theorem clusterCount_ne_zero {p : Params} (hp : p.Admissible) : clusterCount p ≠ 0#12 := by
  obtain ⟨hsize, -⟩ := hp
  simp only [pageSizeOk, isPow2UpTo, Bool.and_eq_true, decide_eq_true_eq, List.any_eq_true, List.mem_range,
    beq_iff_eq] at hsize
  obtain ⟨htwo, e, he, hpow⟩ := hsize
  have hle : p.pageSize ≤ 2 ^ 12 := hpow ▸ Nat.pow_le_pow_right (by omega) (by omega)
  intro h
  have h0 : p.pageSize / 2 % 2 ^ 12 = 0 := by simpa [clusterCount, Params.clusterSize] using congrArg BitVec.toNat h
  omega

/-! ## Fetching from the loaded program (40 R71) -/

/-- Where two-word instructions stand one after the other, each stands at its place. -/
theorem readWords_of_flatMap_encode {m : Memory} {a : Nat} {is : List Instr}
    (htwo : ∀ i ∈ is, (encode i).length = 2)
    (h : m.readWords a (is.flatMap encode).length = is.flatMap encode) {w : Nat} {i : Instr} (hi : is[w]? = some i) :
    m.readWords (a + 8 * w) 2 = encode i := by
  induction is generalizing a w with
  | nil => simp at hi
  | cons j is ih =>
    have hj : (encode j).length = 2 := htwo j (by simp)
    rw [List.flatMap_cons, List.length_append, hj, Memory.readWords_add] at h
    obtain ⟨hfirst, hrest⟩ := List.append_inj h (by simp [hj])
    cases w with
    | zero =>
      obtain rfl : j = i := by simpa using hi
      exact hfirst
    | succ w =>
      have := ih (fun i hi => htwo i (by simp [hi])) hrest (w := w) (by simpa using hi)
      rwa [show a + 8 * (w + 1) = a + 4 * 2 + 8 * w by omega]

theorem encode_length_pageInstrs {p : Params} {irqt : Nat} {bases : List Word} {i : Instr}
    (hi : i ∈ pageInstrs p irqt bases) : (encode i).length = 2 := by
  obtain ⟨w, hw, rfl⟩ := List.mem_iff_getElem.1 hi
  obtain ⟨irq1, dst, h⟩ := pageInstrs_getElem? p irqt bases (by rwa [← pageInstrs_length p irqt])
  rw [List.getElem?_eq_getElem hw] at h
  rw [Option.some.inj h]
  rfl

/-- Behind the SYNC every instruction has two words (30_encoding R59, R60). -/
theorem encode_length_of_mem_tail {p : Params} {i : Instr} (hi : i ∈ (programInstrs p).tail) :
    (encode i).length = 2 := by
  simp only [programInstrs, List.tail_cons, List.mem_append, List.mem_singleton] at hi
  rcases hi with hi | rfl
  · exact encode_length_pageInstrs hi
  · rfl

section

variable {s : State}

/-- The loaded program is its SYNC's word and, behind it, the words of the other instructions. -/
theorem readWords_of_programLoaded (h : s.ProgramLoaded) :
    s.mem.readWord s.par.progBase.toNat = syncWord .reset ∧
      s.mem.readWords (s.par.progBase.toNat + 4) ((programInstrs s.par).tail.flatMap encode).length =
        (programInstrs s.par).tail.flatMap encode := by
  have hwords : programWords s.par = syncWord .reset :: (programInstrs s.par).tail.flatMap encode := rfl
  rw [State.ProgramLoaded, hwords, List.length_cons, Memory.readWords] at h
  exact List.cons.inj h

theorem readWords_instr_of_programLoaded (h : s.ProgramLoaded) {w : Nat} {i : Instr}
    (hi : (programInstrs s.par)[w + 1]? = some i) :
    s.mem.readWords (s.par.progBase.toNat + 4 + 8 * w) 2 = encode i :=
  readWords_of_flatMap_encode (fun _ => encode_length_of_mem_tail) (readWords_of_programLoaded h).2
    (by rwa [List.getElem?_tail])

/-- An admissible program's words lie inside the program buffer and the address space (00_scope R8). -/
theorem fetchable_of_admissible (hp : s.par.Admissible) {k : Nat}
    (hk : 4 * k + 4 ≤ s.par.programBytes) : s.fetchable (s.par.progBase.toNat + 4 * k) = true := by
  obtain ⟨-, -, -, hal, hfit, hbuf, -⟩ := hp
  simp only [State.fetchable_iff, State.insideProgram, Bool.and_eq_true, decide_eq_true_eq]
  omega

/-- Inside the address space the 32-bit sum does not wrap (10_state R22). -/
theorem toNat_add_of_fits {a : Word} {k : Nat} (h : a.toNat + k < addressSpace) :
    (a + BitVec.ofNat 32 k).toNat = a.toNat + k := by
  rw [BitVec.toNat_add, BitVec.toNat_ofNat, Nat.add_mod_mod]
  exact Nat.mod_eq_of_lt h

/-- The generated program ends inside the address space (00_scope R8, 41 R94). -/
theorem program_fits {p : Params} (hp : p.Admissible) :
    p.progBase.toNat + (16 * p.numPages + 12) ≤ addressSpace := by
  obtain ⟨-, -, -, -, hfit, -⟩ := hp
  exact hfit

/-- A two-word instruction decodes from its two words. -/
theorem decode_of_two_words {i : Instr} (hwf : i.wellFormed = true) {w0 w1 : Word} (hi : [w0, w1] = encode i)
    {bytes r0 r1 : List Byte} (h0 : takeWord bytes = some (w0, r0)) (h1 : takeWord r0 = some (w1, r1)) :
    decode bytes = .ok (i, r1) := by
  cases i with
  | sync cnt => simp [encode] at hi
  | write sol eol irq1 cnt count dst =>
    obtain ⟨rfl, rfl⟩ : w0 = writeWord sol eol irq1 cnt count ∧ w1 = dst := by simpa [encode] using hi
    have hcount : count ≠ 0#12 := by simpa [Instr.wellFormed] using hwf
    simp only [decode, h0, decodeControl_writeWord sol eol irq1 cnt hcount, h1]
  | jump target =>
    obtain ⟨rfl, rfl⟩ : w0 = jumpWord ∧ w1 = target := by simpa [encode] using hi
    have hjump : decodeControl jumpWord = .ok .jump := by decide
    simp only [decode, h0, hjump, h1]

theorem decode_fetchBytes_sync (hp : s.par.Admissible) (hl : s.ProgramLoaded) (hepc : s.epc = s.par.progBase) :
    ∃ rest, decode s.fetchBytes = .ok (.sync .reset, rest) := by
  have hfetch : s.fetchable s.epc.toNat = true := by
    rw [hepc]; exact fetchable_of_admissible hp (k := 0) (by simp [Params.programBytes])
  have hword := State.takeWord_fetchBytes hfetch
  rw [hepc, (readWords_of_programLoaded hl).1] at hword
  have hsync : decodeControl (syncWord .reset) = .ok (.sync .reset) := by decide
  exact ⟨_, by simp only [decode, hword, hsync]; rfl⟩

/-- Past the SYNC the engine decodes the program's instructions. -/
theorem decode_fetchBytes_instr (hp : s.par.Admissible) (hl : s.ProgramLoaded) {w : Nat}
    (hw : w ≤ 2 * s.par.numPages) (hepc : s.epc.toNat = s.par.progBase.toNat + 4 + 8 * w) {i : Instr}
    (hi : (programInstrs s.par)[w + 1]? = some i) (hwf : i.wellFormed = true) :
    ∃ rest, decode s.fetchBytes = .ok (i, rest) := by
  have hbytes : s.par.programBytes = 16 * s.par.numPages + 12 := rfl
  have hfetch0 : s.fetchable s.epc.toNat = true := by
    have := fetchable_of_admissible hp (k := 1 + 2 * w) (by omega)
    rwa [hepc, show s.par.progBase.toNat + 4 + 8 * w = s.par.progBase.toNat + 4 * (1 + 2 * w) by omega]
  have hfit := program_fits hp
  have hnext : (s.epc + 4#32).toNat = s.epc.toNat + 4 := toNat_add_of_fits (by omega)
  have hfetch1 : s.fetchable (s.epc + 4#32).toNat = true := by
    have := fetchable_of_admissible hp (k := 2 + 2 * w) (by omega)
    rwa [hnext, hepc, show s.par.progBase.toNat + 4 + 8 * w + 4 = s.par.progBase.toNat + 4 * (2 + 2 * w) by omega]
  have hwords : [s.mem.readWord s.epc.toNat, s.mem.readWord (s.epc + 4#32).toNat] = encode i := by
    rw [hnext, hepc, ← readWords_instr_of_programLoaded hl hi]; rfl
  exact ⟨[], decode_of_two_words hwf hwords (State.takeWord_fetchBytes hfetch0)
    (State.takeWord_fetchWordBytes hfetch1)⟩

end
/-! ## The counter names the page being written (40 R76, R82) -/

/-- `N` divides the counter's range, so the wrap of the counter keeps `GPCNT mod N` (00_scope R8, 10_state R24). -/
theorem numPages_dvd {p : Params} (hp : p.Admissible) : p.numPages ∣ 65536 := by
  obtain ⟨-, hring, -⟩ := hp
  simp only [ringSizeOk, isPow2UpTo, List.any_eq_true, List.mem_range, beq_iff_eq] at hring
  obtain ⟨e, he, hpow⟩ := hring
  rw [← hpow]
  exact Nat.pow_dvd_pow 2 (by omega : e ≤ 16)

theorem toNat_add_one_mod {n : Nat} (hn : n ∣ 65536) (c : Half) : (c + 1#16).toNat % n = (c.toNat + 1) % n := by
  rw [BitVec.toNat_add]
  exact Nat.mod_mod_of_dvd _ hn

/-- Each WRITE's counter control moves the counter to the page of the next instruction, under both effects of the
last tag. -/
theorem countedGpcnt_programCnt (effect : LastCntEffect) {n w : Nat} (hn : n ∣ 65536) {c : Half}
    (hc : c.toNat % n = w / 2 % n) :
    (countedGpcnt effect (programCnt n w) c).toNat % n = (w + 1) / 2 % n := by
  have hstep : w % 2 ≠ 0 → (c + 1#16).toNat % n = (w + 1) / 2 % n := fun hodd => by
    rw [toNat_add_one_mod hn, Nat.add_mod, hc, ← Nat.add_mod, show (w + 1) / 2 = w / 2 + 1 by omega]
  unfold programCnt
  split_ifs with heven hlast
  · rw [show (w + 1) / 2 = w / 2 by omega]; exact hc
  · cases effect with
    | wrapInc => exact hstep heven
    | resetZero => simp [countedGpcnt, hlast]
  · cases effect <;> exact hstep heven

/-! ## The engine's step on the program (40 R81) -/

/-- Where `State.ProgramRunOk` has a running engine: at the SYNC, or past it in step with the counter. -/
def State.OnProgram (s : State) : Prop :=
  (s.engPhase = .atFetch ∧ s.epc = s.par.progBase) ∨
    (s.synced = true ∧ ∃ w, s.EngineAt w ∧ s.gpcnt.toNat % s.par.numPages = w / 2 % s.par.numPages)

theorem fetchStep_of_decode {s : State} {i : Instr} {rest : List Byte} (h : decode s.fetchBytes = .ok (i, rest)) :
    fetchStep s = exec i s := by
  simp only [fetchStep, h]

section

variable {s t : State} {w : Nat}

/-- The SYNC's step. -/
theorem onProgram_of_sync (hp : s.par.Admissible) (hl : s.ProgramLoaded) (hr : s.engRun = .running)
    (hphase : s.engPhase = .atFetch) (hepc : s.epc = s.par.progBase) (h : engineStep s = .next t) : t.OnProgram := by
  obtain ⟨rest, hdec⟩ := decode_fetchBytes_sync hp hl hepc
  rw [engineStep_of_atFetch hr hphase, fetchStep_of_decode hdec] at h
  cases h
  have hfit := program_fits hp
  have hnext : (s.epc + 4#32).toNat = s.par.progBase.toNat + 4 := by rw [hepc, toNat_add_of_fits (by omega)]
  exact .inr ⟨rfl, 0, ⟨Nat.zero_le _, hnext, .inl hphase⟩, by simp⟩

/-- The first step of the program's WRITE `w`. -/
theorem onProgram_of_write_fetch (hp : s.par.Admissible) (hl : s.ProgramLoaded) (hr : s.engRun = .running)
    (hw : w < 2 * s.par.numPages) (hepc : s.epc.toNat = s.par.progBase.toNat + 4 + 8 * w)
    (hphase : s.engPhase = .atFetch) (hsync : s.synced = true)
    (hcnt : s.gpcnt.toNat % s.par.numPages = w / 2 % s.par.numPages) (h : engineStep s = .next t) : t.OnProgram := by
  have hcount := clusterCount_ne_zero hp
  obtain ⟨irq1, dst, hi⟩ := programInstrs_getElem?_write hw
  obtain ⟨rest, hdec⟩ := decode_fetchBytes_instr hp hl (by omega) hepc hi (by simpa [Instr.wellFormed] using hcount)
  rw [engineStep_of_atFetch hr hphase, fetchStep_of_decode hdec] at h
  obtain ⟨hi', -⟩ | ⟨hi', -⟩ | ⟨_, _, _, _, _, _, hi', -, -, -, rfl⟩ | ⟨_, hi', -⟩ := exec_cases h <;> cases hi'
  have hpos : 0 < (clusterCount s.par).toNat := Nat.pos_of_ne_zero fun h0 => hcount (BitVec.eq_of_toNat_eq h0)
  exact .inr ⟨hsync, w, ⟨hw.le, hepc, .inr ⟨_, _, _, _, _, _, 0, hi, hpos, rfl⟩⟩, hcnt⟩

/-- The JUMP's step, back past the SYNC (41 R93). -/
theorem onProgram_of_jump_fetch (hp : s.par.Admissible) (hl : s.ProgramLoaded) (hr : s.engRun = .running)
    (hw : w = 2 * s.par.numPages) (hepc : s.epc.toNat = s.par.progBase.toNat + 4 + 8 * w)
    (hphase : s.engPhase = .atFetch) (hsync : s.synced = true)
    (hcnt : s.gpcnt.toNat % s.par.numPages = w / 2 % s.par.numPages) (h : engineStep s = .next t) : t.OnProgram := by
  subst hw
  obtain ⟨rest, hdec⟩ := decode_fetchBytes_instr hp hl (Nat.le_refl _) hepc (programInstrs_getElem?_jump s.par) rfl
  rw [engineStep_of_atFetch hr hphase, fetchStep_of_decode hdec] at h
  obtain ⟨hi', -⟩ | ⟨hi', -⟩ | ⟨_, _, _, _, _, _, hi', -⟩ | ⟨_, hi', -, rfl⟩ := exec_cases h <;> cases hi'
  have hfit := program_fits hp
  have htarget : (s.par.progBase + 4#32).toNat = s.par.progBase.toNat + 4 := toNat_add_of_fits (by omega)
  refine .inr ⟨hsync, 0, ⟨Nat.zero_le _, htarget, .inl hphase⟩, ?_⟩
  simpa using hcnt

/-- A byte step of the program's WRITE `w`: the WRITE goes on, or ends at the next instruction. -/
theorem onProgram_of_write_byte (hp : s.par.Admissible) (hr : s.engRun = .running)
    (hepc : s.epc.toNat = s.par.progBase.toNat + 4 + 8 * w) {sol eol irq1 : Bool} {cnt : WriteCnt}
    {count : BitVec 12} {dst : Word} {done : Nat}
    (hi : (programInstrs s.par)[w + 1]? = some (.write sol eol irq1 cnt count dst)) (hdone : done < count.toNat)
    (hphase : s.engPhase = .inWrite dst done count.toNat (writeWord sol eol irq1 cnt count)) (hsync : s.synced = true)
    (hw : w < 2 * s.par.numPages) (hcnt : s.gpcnt.toNat % s.par.numPages = w / 2 % s.par.numPages)
    (h : engineStep s = .next t) : t.OnProgram := by
  rw [engineStep_of_inWrite hr hphase] at h
  obtain ⟨-, ⟨hlast, rfl⟩ | ⟨-, cnt', hcnt', rfl⟩⟩ := writeByteStep_cases h
  · exact .inr ⟨hsync, w, ⟨hw.le, hepc, .inr ⟨sol, eol, irq1, cnt, count, dst, done + 1, hi, by omega, rfl⟩⟩, hcnt⟩
  · obtain rfl : cnt' = programCnt s.par.numPages w := by
      obtain ⟨_, _, hi'⟩ := programInstrs_getElem?_write hw
      rw [fieldCnt_writeWord, writeCntOfBits_writeCntBits] at hcnt'
      cases hi.symm.trans hi'
      exact (Option.some.inj hcnt').symm
    have hgp := countedGpcnt_programCnt s.par.lastCnt (numPages_dvd hp) hcnt
    have hfit := program_fits hp
    have hat : (s.epc + 8#32).toNat = s.par.progBase.toNat + 4 + 8 * (w + 1) := by
      rw [toNat_add_of_fits (by omega), hepc]; omega
    exact .inr ⟨hsync, w + 1, ⟨hw, hat, .inl rfl⟩, hgp⟩

/-- Only the program's WRITEs are in progress: behind the last of them stands the JUMP. -/
theorem lt_of_programInstrs_write {p : Params} (hw : w ≤ 2 * p.numPages) {sol eol irq1 : Bool} {cnt : WriteCnt}
    {count : BitVec 12} {dst : Word} (hi : (programInstrs p)[w + 1]? = some (.write sol eol irq1 cnt count dst)) :
    w < 2 * p.numPages := by
  refine lt_of_le_of_ne hw ?_
  rintro rfl
  cases hi.symm.trans (programInstrs_getElem?_jump p)

theorem engineStep_keeps_onProgram (hp : s.par.Admissible) (hl : s.ProgramLoaded) (hr : s.engRun = .running)
    (hs : s.OnProgram) (h : engineStep s = .next t) : t.OnProgram := by
  obtain ⟨hphase, hepc⟩ | ⟨hsync, w, ⟨hw, hepc, hphase | ⟨_, _, _, _, _, _, _, hi, hdone, hphase⟩⟩, hcnt⟩ := hs
  · exact onProgram_of_sync hp hl hr hphase hepc h
  · rcases hw.lt_or_eq with hlt | heq
    · exact onProgram_of_write_fetch hp hl hr hlt hepc hphase hsync hcnt h
    · exact onProgram_of_jump_fetch hp hl hr heq hepc hphase hsync hcnt h
  · exact onProgram_of_write_byte hp hr hepc hi hdone hphase hsync (lt_of_programInstrs_write hw hi) hcnt h

end
/-! ## The program stays loaded (20_memory R45, R54; log entry 35) -/

/-- The program lies inside the program buffer (00_scope R8). -/
theorem programLoaded_congr {s t : State} (hp : s.par.Admissible) (hpar : t.par = s.par)
    (hsame : ∀ x, s.par.progBase.toNat ≤ x → x < s.par.progBase.toNat + s.par.progBufSize →
      t.mem.read x = s.mem.read x)
    (h : s.ProgramLoaded) : t.ProgramLoaded := by
  obtain ⟨-, -, -, -, -, hbuf, -⟩ := hp
  rw [State.ProgramLoaded, hpar, Memory.readWords_congr fun x hlo hhi => hsame x hlo ?_]
  · exact h
  · rw [programWords_bytes] at hhi; omega

/-- Where BUILD_PROGRAM's words were just written the program is loaded (41 R88). -/
theorem programLoaded_of_written {s t : State} (hp : s.par.Admissible) (hm : s.MemOk) (hpar : t.par = s.par)
    (hmem : t.mem = s.mem.writeWords s.par.progBase.toNat (programWords s.par)) : t.ProgramLoaded := by
  rw [State.ProgramLoaded, hpar, hmem]
  exact Memory.readWords_writeWords hm (by rw [programWords_bytes]; exact program_fits hp)

/-- A loaded program stays loaded under every change of memory, the table being apart from the program buffer. -/
theorem MemChange.keeps_programLoaded {s t : State} (h : MemChange s t.mem) (hp : s.par.Admissible) (hm : s.MemOk)
    (hapart : Apart s.par.progBase.toNat s.par.progBufSize s.par.cdtBase.toNat s.par.cdtBytes)
    (hpar : t.par = s.par) (hl : s.ProgramLoaded) : t.ProgramLoaded := by
  generalize hmem : t.mem = m at h
  cases h with
  | same => exact programLoaded_congr hp hpar (fun x _ _ => by rw [hmem]) hl
  | pageByte a b ha =>
    exact programLoaded_congr hp hpar (fun x hlo hhi => by rw [hmem, read_pageByte hp hm ha (.inl ⟨hlo, hhi⟩)]) hl
  | fill cells _ =>
    exact programLoaded_congr hp hpar (fun x hlo hhi => by
      rw [hmem, read_fillCells hm cells (pageCovers_of_programOrTable hp (.inl ⟨hlo, hhi⟩))]) hl
  | table _ hfit =>
    have hbytes : 4 * (cdtEntries s.par).length = s.par.cdtBytes := by
      rw [cdtEntries_length, Params.cdtBytes]; omega
    exact programLoaded_congr hp hpar (fun x hlo hhi => by
      rw [hmem, Memory.read_writeWords_of_outside hm (by omega) (by omega)]) hl
  | program _ _ _ => exact programLoaded_of_written hp hm hpar hmem

/-! ## Pool and program as the agents change them (10_state R29, 70_reset R141) -/

/-- `pool`, `prog_built` and the ghost `synced`. -/
structure BuildView where
  pool      : Pool
  progBuilt : Bool
  synced    : Bool

def State.buildView (s : State) : BuildView := ⟨s.pool, s.progBuilt, s.synced⟩

/-- What a turn other than the engine's does to them: nothing, or what ALLOCATE, FREE, BUILD_PROGRAM and START do, all
of them with the engine stopped (41 R84, R85, R88, R97, R98). -/
inductive BuildChange (s t : State) : Prop where
  | same (h : t.buildView = s.buildView)
  | allocate (hr : s.engRun = .stopped) (h : t.buildView = { s.buildView with pool := .allocated })
  | free (hr : s.engRun = .stopped)
      (h : t.buildView = { s.buildView with pool := .unallocated, progBuilt := false })
  | build (hr : s.engRun = .stopped) (h : t.mem = s.mem.writeWords s.par.progBase.toNat (programWords s.par))
  | start (hr : s.engRun = .stopped) (h : t.buildView = { s.buildView with synced := false })

theorem allocate_buildChange {capacity pageSize : Nat} {s t : State} (h : allocate capacity pageSize s = .next t) :
    BuildChange s t := by
  unfold allocate at h
  split_ifs at h with hr <;> cases h
  · exact .same rfl
  · exact .same rfl
  · exact .allocate (EngRun.eq_stopped_of_ne_running hr) (by
      simp [State.buildView, State.returned, State.afterAlloc_eq, State.fillPages_eq])
  · exact .same (by rw [State.afterAlloc_eq]; rfl)

theorem free_buildChange {s t : State} (h : free s = .next t) : BuildChange s t := by
  unfold free at h
  split_ifs at h with hr
  cases h
  exact .free (EngRun.eq_stopped_of_ne_running fun hrun => hr (.inl hrun)) rfl

theorem buildCdt_buildView {s t : State} (h : buildCdt s = .next t) : t.buildView = s.buildView := by
  unfold buildCdt at h
  split_ifs at h <;> cases h <;> rfl

theorem buildProgram_buildChange {s t : State} (h : buildProgram s = .next t) : BuildChange s t := by
  unfold buildProgram at h
  split_ifs at h with hr <;> cases h
  · exact .same rfl
  · exact .same rfl
  · exact .same rfl
  · exact .build (EngRun.eq_stopped_of_ne_running hr) rfl

theorem State.writeDmaEn_buildView (s : State) (v : Bool) : (s.writeDmaEn v).buildView = s.buildView := by
  unfold State.writeDmaEn
  split <;> rfl

theorem State.storeReg_buildView (s : State) (r : Reg) (v : Word) : (s.storeReg r v).buildView = s.buildView := by
  cases r
  case devCntrl => exact s.writeDmaEn_buildView _
  all_goals rfl

/-- START changes neither pool nor program; it clears the ghost (70_reset R141). -/
theorem State.launch_buildView (s : State) : s.launch.buildView = { s.buildView with synced := false } :=
  congrArg (fun v : BuildView => { v with synced := false }) (State.writeDmaEn_buildView _ true)

/-- A START that starts the engine found pool and program there (41 R98). -/
theorem start_ready {s t : State} (h : start s = .next t) (hstart : t.engRun = .running) :
    t.pool = .allocated ∧ t.progBuilt = true := by
  unfold start at h
  split_ifs at h with hr hready <;> cases h
  · exact absurd hstart hr
  · have hview := s.launch_buildView
    have hpool : s.launch.pool = s.pool := congrArg BuildView.pool hview
    have hprog : s.launch.progBuilt = s.progBuilt := congrArg BuildView.progBuilt hview
    simp only [not_or, Bool.not_eq_false] at hready
    obtain ⟨halloc, -, hbuilt⟩ := hready
    refine ⟨hpool.trans ?_, hprog.trans hbuilt⟩
    cases hs : s.pool with
    | unallocated => exact absurd hs halloc
    | allocated => rfl

theorem start_buildChange {s t : State} (h : start s = .next t) : BuildChange s t := by
  unfold start at h
  split_ifs at h with hr <;> cases h
  · exact .same rfl
  · exact .start (EngRun.eq_stopped_of_ne_running hr) s.launch_buildView

theorem hostRegWrite_buildView {offset width : Nat} {value : Word} {s t : State}
    (h : hostRegWrite offset width value s = .next t) : t.buildView = s.buildView := by
  obtain ⟨r, -, rfl⟩ := hostRegWrite_cases h
  exact s.storeReg_buildView r value

theorem openSession_buildView {s t : State} (h : openSession s = .next t) : t.buildView = s.buildView := by
  unfold openSession at h
  split_ifs at h <;> cases h <;> simp [State.buildView, State.returned]

theorem readEntry_buildView {max : DWord} {blocking : Bool} {s t : State} (h : readEntry max blocking s = .next t) :
    t.buildView = s.buildView := by
  unfold readEntry at h
  split_ifs at h <;> cases h <;> rfl

theorem close_buildView {s t : State} (h : close s = .next t) : t.buildView = s.buildView := by
  unfold close at h
  split_ifs at h; cases h; rfl

theorem hostRegRead_buildView {offset width : Nat} {s t : State} (h : hostRegRead offset width s = .next t) :
    t.buildView = s.buildView := by
  unfold hostRegRead at h
  split_ifs at h
  split at h <;> cases h; rfl

theorem readCopy_buildView {c : ReadCtx} {len i : Nat} {s t : State} (h : readCopy c len i s = .next t) :
    t.buildView = s.buildView := by
  unfold readCopy at h
  split at h
  · cases h
  · split_ifs at h <;> cases h <;>
      simp [State.buildView, State.afterSink_eq, State.spoilChunk_eq, State.setReadPhase, State.endRead, State.returned]

theorem readZero_buildView {c : ReadCtx} {len i : Nat} {s t : State} (h : readZero c len i s = .next t) :
    t.buildView = s.buildView := by
  unfold readZero at h
  split at h
  · cases h
  · split_ifs at h <;> cases h <;> rfl

theorem readerStep_buildView {s t : State} (h : readerStep s = .next t) : t.buildView = s.buildView := by
  unfold readerStep at h
  split at h
  · cases h; rfl
  · split at h
    · unfold readScan at h
      split_ifs at h <;> cases h <;> rfl
    · exact readCopy_buildView h
    · exact readZero_buildView h
    · cases h; rfl
    · unfold readWaiting at h
      split_ifs at h <;> cases h <;> rfl

theorem ackStep_buildView {s t : State} (h : ackStep s = .next t) : t.buildView = s.buildView := by
  unfold ackStep at h
  split_ifs at h <;> cases h <;> rfl

theorem cancelStep_buildView {s t : State} (h : cancelStep s = .next t) : t.buildView = s.buildView := by
  unfold cancelStep at h
  split at h
  · cases h; rfl
  · split_ifs at h <;> cases h <;> rfl

theorem commandStep_buildChange {c : Command} {s t : State} (h : commandStep c s = .next t) : BuildChange s t := by
  cases c with
  | allocate => exact allocate_buildChange h
  | free => exact free_buildChange h
  | buildCdt => exact .same (buildCdt_buildView h)
  | buildProgram => exact buildProgram_buildChange h
  | start => exact start_buildChange h
  | stop => cases h; exact .same (s.writeDmaEn_buildView false)
  | openSession => exact .same (openSession_buildView h)
  | read => exact .same (readEntry_buildView h)
  | close => exact .same (close_buildView h)
  | regRead => exact .same (hostRegRead_buildView h)
  | regWrite => exact .same (hostRegWrite_buildView h)

theorem turnStep_buildChange {who : Turn} {s t : State} (h : turnStep who s = .next t) (hw : who ≠ .engine) :
    BuildChange s t := by
  cases who with
  | engine => exact absurd rfl hw
  | syncWait => cases h; exact .same rfl
  | command c => exact commandStep_buildChange h
  | reader => exact .same (readerStep_buildView h)
  | ack => exact .same (ackStep_buildView h)
  | cancel => exact .same (cancelStep_buildView h)

/-- While the engine runs pool, program and ghost are the other agents' to read only (41 R97). -/
theorem BuildChange.same_of_running {s t : State} (h : BuildChange s t) (hr : s.engRun = .running) :
    t.buildView = s.buildView := by
  cases h with
  | same h => exact h
  | allocate hstop _ | free hstop _ | build hstop _ | start hstop _ => simp [hr] at hstop

/-! ## The invariant of the program's run (40 R81, R82) -/

theorem EngineChange.par_eq {s t : State} {who : Turn} (h : EngineChange s t who) : t.par = s.par := by
  cases h with
  | same h | start _ h | stop _ h | rawStart _ _ h | rawStop _ _ h => exact congrArg EngineView.par h

/-- Where the engine stands on the program is a matter of the engine and the ghost. -/
theorem State.OnProgram.of_views {s t : State} (hs : s.OnProgram) (he : t.engineView = s.engineView)
    (hb : t.buildView = s.buildView) : t.OnProgram := by
  have hpar : t.par = s.par := congrArg EngineView.par he
  have hepc : t.epc = s.epc := congrArg EngineView.epc he
  have hphase : t.engPhase = s.engPhase := congrArg EngineView.engPhase he
  have hgpcnt : t.gpcnt = s.gpcnt := congrArg EngineView.gpcnt he
  have hsync : t.synced = s.synced := congrArg BuildView.synced hb
  simpa only [State.OnProgram, State.EngineAt, hpar, hepc, hphase, hgpcnt, hsync] using hs

theorem State.OnProgram.of_startedAt {s t : State}
    (h : t.engineView = s.engineView.startedAt s.par.progBase) : t.OnProgram := by
  have hpar : t.par = s.par := congrArg EngineView.par h
  have hepc : t.epc = s.par.progBase := congrArg EngineView.epc h
  exact .inl ⟨congrArg EngineView.engPhase h, by rw [hepc, hpar]⟩

section

variable {s t : State} {who : Turn}

/-- The engine's step keeps it on the program. -/
theorem engineStep_keeps_programRunOk (hm : s.MemOk) (hs : s.ProgramRunOk) (h : engineStep s = .next t) :
    t.ProgramRunOk := by
  obtain ⟨hp, hapart, hload, hrun⟩ := hs
  obtain ⟨hpar, hengRun, hpool, hbuilt⟩ : t.par = s.par ∧ t.engRun = s.engRun ∧ t.pool = s.pool ∧
      t.progBuilt = s.progBuilt := by
    rw [engineStep_frame h]; exact ⟨rfl, rfl, rfl, rfl⟩
  refine ⟨hpar ▸ hp, hpar ▸ hapart, fun hb => ?_, fun hr => ?_⟩
  · exact (engineStep_mem h).keeps_programLoaded hp hm hapart hpar (hload (hbuilt ▸ hb))
  · obtain ⟨halloc, hb, hon⟩ := hrun (hengRun ▸ hr)
    exact ⟨hpool.trans halloc, hbuilt.trans hb, engineStep_keeps_onProgram hp (hload hb) (hengRun ▸ hr) hon h⟩

/-- What another agent's turn leaves loaded. -/
theorem turnStep_keeps_programLoaded (hm : s.MemOk) (hs : s.ProgramRunOk) (h : turnStep who s = .next t)
    (hpar : t.par = s.par) (hw : who ≠ .engine) (hb : t.progBuilt = true) : t.ProgramLoaded := by
  obtain ⟨hp, hapart, hload, -⟩ := hs
  have hkeep : t.progBuilt = s.progBuilt → t.ProgramLoaded := fun heq =>
    (turnStep_mem h).keeps_programLoaded hp hm hapart hpar (hload (heq ▸ hb))
  cases turnStep_buildChange h hw with
  | same hview | allocate _ hview | start _ hview => exact hkeep (congrArg BuildView.progBuilt hview)
  | free _ hview => exact absurd ((congrArg BuildView.progBuilt hview).symm.trans hb) nofun
  | build _ hmem => exact programLoaded_of_written hp hm hpar hmem

/-- Where another agent's turn leaves the engine running, it runs the program: it did before, or START or the host's
own write of `DMA_EN` starts it there. -/
theorem turnStep_keeps_running_onProgram (hs : s.ProgramRunOk) (h : turnStep who s = .next t) (hw : who ≠ .engine)
    (hraw : s.engRun = .stopped → t.engRun = .running → who ≠ .command .start →
      s.dmaPtr = s.par.progBase ∧ s.pool = .allocated ∧ s.progBuilt = true)
    (hr : t.engRun = .running) : t.pool = .allocated ∧ t.progBuilt = true ∧ t.OnProgram := by
  obtain ⟨-, -, -, hrun⟩ := hs
  cases turnStep_engineChange h hw with
  | same he =>
    have hrs : s.engRun = .running := (congrArg EngineView.engRun he).symm.trans hr
    obtain ⟨halloc, hb, hon⟩ := hrun hrs
    have hview := (turnStep_buildChange h hw).same_of_running hrs
    exact ⟨(congrArg BuildView.pool hview).trans halloc, (congrArg BuildView.progBuilt hview).trans hb,
      State.OnProgram.of_views hon he hview⟩
  | start _ he =>
    obtain ⟨halloc, hb⟩ := start_ready h hr
    exact ⟨halloc, hb, .of_startedAt he⟩
  | stop _ he | rawStop _ _ he => exact absurd ((congrArg EngineView.engRun he).symm.trans hr) nofun
  | rawStart v hstop he =>
    obtain ⟨hptr, halloc, hb⟩ := hraw hstop hr nofun
    have hview := hostRegWrite_buildView h
    exact ⟨(congrArg BuildView.pool hview).trans halloc, (congrArg BuildView.progBuilt hview).trans hb,
      .of_startedAt (hptr ▸ he)⟩

theorem turnStep_keeps_programRunOk (hm : s.MemOk) (hs : s.ProgramRunOk) (h : turnStep who s = .next t)
    (hraw : s.engRun = .stopped → t.engRun = .running → who ≠ .command .start →
      s.dmaPtr = s.par.progBase ∧ s.pool = .allocated ∧ s.progBuilt = true) : t.ProgramRunOk := by
  by_cases hw : who = .engine
  · subst hw; exact engineStep_keeps_programRunOk hm hs h
  · have hpar := (turnStep_engineChange h hw).par_eq
    have ⟨hp, hapart, _, _⟩ := hs
    exact ⟨hpar ▸ hp, hpar ▸ hapart, turnStep_keeps_programLoaded hm hs h hpar hw,
      turnStep_keeps_running_onProgram hs h hw hraw⟩

end

/-- Settles O24: the engine stays on the program by the cases of its step, and of the other turns only a start brings
the engine elsewhere, which is the program's address. -/
theorem everyStepKeepsTheProgramRun : Obligations.EveryStepKeepsTheProgramRun := by
  unfold Obligations.EveryStepKeepsTheProgramRun
  intro s t hm hs h hraw
  exact turnStep_keeps_programRunOk (s := s.setAgenda s.nextTurn.2) hm hs h fun hstop hrun hwho =>
    hraw ⟨hstop, hrun, hwho⟩

end Sys2Proof.Machine

/-! # The encoding and the decoder, each the other's inverse (30_encoding R57 to R67) -/

namespace Sys2Proof

open Sys2Proof.Machine

/-! ## Words and their bytes (20_memory R37) -/

/-- Each byte is found past those put below it. -/
theorem bytesOfWord_wordOfBytes (b0 b1 b2 b3 : Byte) : bytesOfWord (wordOfBytes b0 b1 b2 b3) = [b0, b1, b2, b3] := by
  simp only [bytesOfWord, wordOfBytes, List.cons.injEq, and_true]
  refine ⟨BitVec.extractLsb'_append_eq_right, ?_, ?_, ?_⟩
  · exact (BitVec.extractLsb'_append_eq_of_le (by decide)).trans BitVec.extractLsb'_append_eq_right
  · exact ((BitVec.extractLsb'_append_eq_of_le (by decide)).trans
      (BitVec.extractLsb'_append_eq_of_le (by decide))).trans BitVec.extractLsb'_append_eq_right
  · exact ((BitVec.extractLsb'_append_eq_of_le (by decide)).trans
      (BitVec.extractLsb'_append_eq_of_le (by decide))).trans BitVec.extractLsb'_append_eq_left

theorem takeWord_eq_some_iff {bytes rest : List Byte} {w : Word} :
    takeWord bytes = some (w, rest) ↔ bytes = bytesOfWord w ++ rest := by
  constructor
  · intro h
    unfold takeWord at h
    split at h
    next b0 b1 b2 b3 tail =>
      cases h
      rw [bytesOfWord_wordOfBytes]
      rfl
    · cases h
  · rintro rfl
    exact takeWord_bytesOfWord w rest

/-! ## The control word's fields (30_encoding R57) -/

theorem ofBool_getLsbD {n : Nat} (w : BitVec n) (k : Nat) : BitVec.ofBool (w.getLsbD k) = w.extractLsb' k 1 := by
  apply BitVec.eq_of_getLsbD_eq
  intro i hi
  obtain rfl : i = 0 := by omega
  simp

/-- The nine fields are all the bits of the control word. -/
theorem fields_append (w0 : Word) :
    fieldOp w0 ++ BitVec.ofBool (fieldSol w0) ++ BitVec.ofBool (fieldEol w0) ++ BitVec.ofBool (fieldIrq2 w0) ++
      BitVec.ofBool (fieldIrq1 w0) ++ fieldReservedHi w0 ++ fieldCnt w0 ++ fieldReservedLo w0 ++ fieldCount w0 =
    w0 := by
  simp only [fieldOp, fieldSol, fieldEol, fieldIrq2, fieldIrq1, fieldReservedHi, fieldCnt, fieldReservedLo, fieldCount,
    ofBool_getLsbD, BitVec.extractLsb'_append_extractLsb'_eq_extractLsb']
  exact BitVec.extractLsb'_eq_self

/-- A word with a WRITE's opcode and its `IRQ2` and reserved bits clear is the WRITE word of its other fields. -/
theorem writeWord_fields {w0 : Word} {cnt : WriteCnt} (hop : fieldOp w0 = 0b0001#4) (hirq2 : fieldIrq2 w0 = false)
    (hhi : fieldReservedHi w0 = 0#6) (hlo : fieldReservedLo w0 = 0#4) (hcnt : fieldCnt w0 = writeCntBits cnt) :
    writeWord (fieldSol w0) (fieldEol w0) (fieldIrq1 w0) cnt (fieldCount w0) = w0 := by
  have h := fields_append w0
  rwa [hop, hirq2, hhi, hlo, hcnt] at h

theorem writeCntOfBits_eq_some_iff {c : BitVec 2} {cnt : WriteCnt} :
    writeCntOfBits c = some cnt ↔ c = writeCntBits cnt := by
  revert c
  cases cnt <;> decide

/-- 0b10 is the only counter code without a meaning (30_encoding R62). -/
theorem exists_eq_writeCntBits_iff {c : BitVec 2} : (∃ cnt, c = writeCntBits cnt) ↔ c ≠ 0b10#2 := by
  constructor
  · rintro ⟨cnt, rfl⟩
    cases cnt <;> decide
  · have hall : ∀ c : BitVec 2, c ≠ 0b10#2 →
        c = writeCntBits .none ∨ c = writeCntBits .inc ∨ c = writeCntBits .last := by decide
    intro hc
    rcases hall c hc with h | h | h <;> exact ⟨_, h⟩

/-! ## What the decoder says of a control word (30_encoding R65, R67) -/

/-- The control word an encoder lays out for what a control word can say. -/
def Control.word : Control → Word
  | .sync cnt => syncWord cnt
  | .write sol eol irq1 cnt count => writeWord sol eol irq1 cnt count
  | .jump => jumpWord

/-- What has a control word: all but a WRITE of no bytes (30_encoding R64). -/
def Control.Admitted : Control → Prop
  | .sync _ => True
  | .write _ _ _ _ count => count ≠ 0#12
  | .jump => True

section

variable {w0 : Word} {c : Control}

theorem decodeControl_word (h : c.Admitted) : decodeControl c.word = .ok c := by
  cases c with
  | sync cnt => cases cnt <;> rfl
  | write sol eol irq1 cnt count => exact decodeControl_writeWord sol eol irq1 cnt h
  | jump => rfl

theorem decodeSync_eq_ok (h : decodeSync w0 = .ok c) : c.Admitted ∧ c.word = w0 := by
  unfold decodeSync at h
  split_ifs at h with hnone hreset
  · cases h; exact ⟨trivial, hnone.symm⟩
  · cases h; exact ⟨trivial, hreset.symm⟩

theorem decodeWrite_eq_ok (hop : fieldOp w0 = 0b0001#4) (h : decodeWrite w0 = .ok c) : c.Admitted ∧ c.word = w0 := by
  unfold decodeWrite at h
  split_ifs at h with hirq2 hhi hlo hcount
  split at h
  · cases h
  next cnt hcnt =>
    cases h
    exact ⟨hcount, writeWord_fields hop (eq_false_of_ne_true hirq2) (not_not.1 hhi) (not_not.1 hlo)
      (writeCntOfBits_eq_some_iff.1 hcnt)⟩

theorem decodeJump_eq_ok (h : decodeJump w0 = .ok c) : c.Admitted ∧ c.word = w0 := by
  unfold decodeJump at h
  split_ifs at h with hjump
  cases h
  exact ⟨trivial, hjump.symm⟩

/-- Each admitted control word says one thing, and no bit of it is dropped. -/
theorem decodeControl_eq_ok_iff : decodeControl w0 = .ok c ↔ c.Admitted ∧ c.word = w0 := by
  constructor
  · intro h
    unfold decodeControl at h
    split_ifs at h with hsync hwrite hjump
    · exact decodeSync_eq_ok h
    · exact decodeWrite_eq_ok hwrite h
    · exact decodeJump_eq_ok h
  · rintro ⟨hadm, rfl⟩
    exact decodeControl_word hadm

/-- Every check that fails rejects the word itself (30_encoding R67). -/
theorem decodeControl_eq_error {e : DecodeError} (h : decodeControl w0 = .error e) : ∃ why, e = .rejected why w0 := by
  unfold decodeControl at h
  split_ifs at h
  · unfold decodeSync at h
    split_ifs at h
    cases h; exact ⟨_, rfl⟩
  · unfold decodeWrite at h
    split_ifs at h
    iterate 4 · cases h; exact ⟨_, rfl⟩
    split at h
    · cases h; exact ⟨_, rfl⟩
    · cases h
  · unfold decodeJump at h
    split_ifs at h
    cases h; exact ⟨_, rfl⟩
  · cases h; exact ⟨_, rfl⟩

theorem decodeControl_eq_rejected (h : ∀ c, decodeControl w0 ≠ .ok c) :
    ∃ why, decodeControl w0 = .error (.rejected why w0) := by
  cases hdec : decodeControl w0 with
  | ok c => exact absurd hdec (h c)
  | error e =>
    obtain ⟨why, rfl⟩ := decodeControl_eq_error hdec
    exact ⟨why, rfl⟩

end

/-! ## Instructions and their bytes (30_encoding R61) -/

theorem decode_of_sync_word {bytes rest : List Byte} {cnt : SyncCnt}
    (hword : takeWord bytes = some (syncWord cnt, rest)) : decode bytes = .ok (.sync cnt, rest) := by
  have hsync : decodeControl (syncWord cnt) = .ok (.sync cnt) := decodeControl_word (c := .sync cnt) trivial
  simp only [decode, hword, hsync]

theorem decode_of_rejected_word {bytes rest : List Byte} {w0 : Word} {why : Rejection}
    (hword : takeWord bytes = some (w0, rest)) (hw : decodeControl w0 = .error (.rejected why w0)) :
    decode bytes = .error (.rejected why w0) := by
  simp only [decode, hword, hw]

/-- Settles O2: what the encoder puts in a word, the decoder takes out, and each word takes exactly its four bytes. -/
theorem decodeOfEncodeIsTheInstruction : Obligations.DecodeOfEncodeIsTheInstruction := by
  unfold Obligations.DecodeOfEncodeIsTheInstruction
  intro i rest hwf
  cases i with
  | sync cnt => exact decode_of_sync_word (takeWord_bytesOfWord _ _)
  | write | jump => exact decode_of_two_words hwf rfl (takeWord_bytesOfWord _ _) (takeWord_bytesOfWord _ _)

/-- Settles O3: the decoder takes whole words, and what it makes of a control word determines that word. -/
theorem encodeOfDecodeIsTheBytes : Obligations.EncodeOfDecodeIsTheBytes := by
  unfold Obligations.EncodeOfDecodeIsTheBytes
  intro bytes i rest h
  unfold decode at h
  split at h
  · cases h
  next w0 rest0 hword =>
    obtain rfl := takeWord_eq_some_iff.1 hword
    split at h
    · cases h
    next cnt hc =>
      cases h
      obtain ⟨-, rfl⟩ := decodeControl_eq_ok_iff.1 hc
      exact ⟨rfl, rfl⟩
    next sol eol irq1 cnt count hc =>
      obtain ⟨hcount, rfl⟩ := decodeControl_eq_ok_iff.1 hc
      split at h
      · cases h
      next w1 rest1 hword1 =>
        cases h
        obtain rfl := takeWord_eq_some_iff.1 hword1
        exact ⟨bne_iff_ne.2 hcount, rfl⟩
    next hc =>
      obtain ⟨-, rfl⟩ := decodeControl_eq_ok_iff.1 hc
      split at h
      · cases h
      next w1 rest1 hword1 =>
        cases h
        obtain rfl := takeWord_eq_some_iff.1 hword1
        exact ⟨rfl, rfl⟩

/-- Settles O4: an admitted word is the word of a SYNC, a WRITE or a JUMP, and a WRITE's is put together from its
fields. -/
theorem admittedFormsAreTheOpcodeMap : Obligations.AdmittedFormsAreTheOpcodeMap := by
  unfold Obligations.AdmittedFormsAreTheOpcodeMap
  simp only [decodeControl_eq_ok_iff]
  intro w0
  constructor
  · rintro ⟨c, hadm, rfl⟩
    cases c with
    | sync cnt =>
      cases cnt with
      | none => exact .inl rfl
      | reset => exact .inr (.inl rfl)
    | write sol eol irq1 cnt count =>
      exact .inr (.inr (.inl ⟨fieldOp_writeWord .., fieldIrq2_writeWord .., fieldReservedHi_writeWord ..,
        fieldReservedLo_writeWord .., exists_eq_writeCntBits_iff.1 ⟨cnt, fieldCnt_writeWord ..⟩,
        (fieldCount_writeWord ..).trans_ne hadm⟩))
    | jump => exact .inr (.inr (.inr rfl))
  · rintro (rfl | rfl | ⟨hop, hirq2, hhi, hlo, hcnt, hcount⟩ | rfl)
    · exact ⟨.sync .none, trivial, rfl⟩
    · exact ⟨.sync .reset, trivial, rfl⟩
    · obtain ⟨cnt, hcnt⟩ := exists_eq_writeCntBits_iff.2 hcnt
      exact ⟨.write _ _ _ cnt _, hcount, writeWord_fields hop hirq2 hhi hlo hcnt⟩
    · exact ⟨.jump, trivial, rfl⟩

/-- Settles O1, by running the decoder on each of the words. -/
theorem wordsOfTheSpecDecode : Obligations.WordsOfTheSpecDecode := by
  unfold Obligations.WordsOfTheSpecDecode
  refine ⟨?_, ?_, ?_, ?_, ?_, ?_, ?_, ?_, ?_, ?_⟩ <;> rfl

end Sys2Proof

/-! # The engine at a fetch and at a WRITE's first step (40 R72, R75) -/

namespace Sys2Proof.Machine

open Sys2Proof

theorem fetchStep_of_rejected {s : State} {why : Rejection} {w0 : Word}
    (h : decode s.fetchBytes = .error (.rejected why w0)) : fetchStep s = .refused (.unmodelledInstruction w0) := by
  simp only [fetchStep, h]

/-- Settles O8: the word the engine may fetch is rejected by the decoder, whatever stands behind it. -/
theorem unadmittedWordIsRefused : Obligations.UnadmittedWordIsRefused := by
  unfold Obligations.UnadmittedWordIsRefused
  intro s hr hp hal hin hrej
  have hword := State.takeWord_fetchBytes ((s.fetchable_iff _).2 ⟨hal, hin⟩)
  obtain ⟨why, hwhy⟩ := decodeControl_eq_rejected hrej
  exact (engineStep_of_atFetch hr hp).trans (fetchStep_of_rejected (decode_of_rejected_word hword hwhy))

/-- Settles O11: the range passes R75's checks in their order. -/
theorem writeBeginsItsTransfer : Obligations.WriteBeginsItsTransfer := by
  unfold Obligations.WriteBeginsItsTransfer
  intro s sol eol irq1 cnt count dst hc hfit hpool hpage
  have htop : ¬ crossesTop dst count.toNat = true := by rw [crossesTop_iff]; exact Nat.not_lt.2 hfit
  have hin : s.insidePage dst.toNat count.toNat = true := (s.insidePage_iff _ _).2 ⟨hpool, hpage, hfit⟩
  exact (if_neg hc).trans ((if_neg htop).trans (if_pos hin))

end Sys2Proof.Machine

/-! # The engine's turn, its instructions and its run of the generated program (40 R71, R74 to R82) -/

namespace Sys2Proof.Machine

open Sys2Proof

/-! ## Where the generated program's WRITEs land (41 R89, 00_scope R8) -/

/-- An admitted page size is 2 to 4096 (00_scope R8). -/
theorem pageSize_bounds {p : Params} (hp : p.Admissible) : 2 ≤ p.pageSize ∧ p.pageSize ≤ 4096 := by
  obtain ⟨hsize, -⟩ := hp
  simp only [pageSizeOk, isPow2UpTo, Bool.and_eq_true, decide_eq_true_eq, List.any_eq_true, List.mem_range,
    beq_iff_eq] at hsize
  obtain ⟨htwo, e, he, hpow⟩ := hsize
  exact ⟨htwo, hpow ▸ Nat.pow_le_pow_right (by omega) (by omega : e ≤ 12)⟩

/-- A cluster's length fits a WRITE's `COUNT` (30_encoding R64). -/
theorem toNat_clusterCount {p : Params} (hp : p.Admissible) : (clusterCount p).toNat = p.clusterSize := by
  obtain ⟨-, hle⟩ := pageSize_bounds hp
  exact (BitVec.toNat_ofNat ..).trans (Nat.mod_eq_of_lt (by simp only [Params.clusterSize]; omega))

/-- The `w`-th WRITE moves one cluster to a slot of page `w / 2`, the low one or the high one. -/
theorem pageInstrs_write_slot {p : Params} {irqt : Nat} {bases : List Word} {w : Nat} {sol eol irq1 : Bool}
    {cnt : WriteCnt} {count : BitVec 12} {dst : Word}
    (h : (pageInstrs p irqt bases)[w]? = some (.write sol eol irq1 cnt count dst)) :
    ∃ b, bases[w / 2]? = some b ∧ count = clusterCount p ∧ (dst = b ∨ dst = b + clusterWord p) := by
  induction bases generalizing irqt w with
  | nil => simp [pageInstrs] at h
  | cons b rest ih =>
    match w with
    | 0 => cases h; exact ⟨_, rfl, rfl, .inl rfl⟩
    | 1 => cases h; exact ⟨_, rfl, rfl, .inr rfl⟩
    | w + 2 => rw [Nat.add_div_right w (by decide)]; exact ih h

/-- Both cluster slots of an admissible page lie inside it (00_scope R8). -/
theorem slot_inside_page {p : Params} (hp : p.Admissible) {b dst : Word} (hb : b ∈ p.pageBases)
    (hdst : dst = b ∨ dst = b + clusterWord p) :
    b.toNat ≤ dst.toNat ∧ dst.toNat + p.clusterSize ≤ b.toNat + p.pageSize := by
  obtain ⟨htwo, -⟩ := pageSize_bounds hp
  obtain ⟨-, hend, -, -⟩ := page_placed_of_admissible hp hb
  have hcs : p.clusterSize = p.pageSize / 2 := rfl
  rcases hdst with rfl | rfl
  · omega
  · have hhigh : (b + clusterWord p).toNat = b.toNat + p.clusterSize := toNat_add_of_fits (by omega)
    omega

section

variable {p : Params} {w : Nat} {sol eol irq1 : Bool} {cnt : WriteCnt} {count : BitVec 12} {dst : Word}

/-- The program's WRITE `w` lies inside page `w / 2` of the ring. -/
theorem programWrite_inside_page (hp : p.Admissible) (hw : w < 2 * p.numPages)
    (hi : (programInstrs p)[w + 1]? = some (.write sol eol irq1 cnt count dst)) :
    ∃ b, p.pageBases[w / 2]? = some b ∧ b.toNat ≤ dst.toNat ∧
      dst.toNat + count.toNat ≤ b.toNat + p.pageSize := by
  rw [programInstrs, List.getElem?_cons_succ, List.getElem?_append_left (by rwa [pageInstrs_length])] at hi
  obtain ⟨b, hb, rfl, hdst⟩ := pageInstrs_write_slot hi
  rw [toNat_clusterCount hp]
  exact ⟨b, hb, slot_inside_page hp (List.mem_of_getElem? hb) hdst⟩

/-- The engine may write every byte of the program's WRITEs (20_memory R45). -/
theorem programWrite_insidePage {s : State} (hp : s.par.Admissible) (hpool : s.pool = .allocated)
    (hw : w < 2 * s.par.numPages)
    (hi : (programInstrs s.par)[w + 1]? = some (.write sol eol irq1 cnt count dst)) :
    s.insidePage dst.toNat count.toNat = true := by
  obtain ⟨b, hb, hlo, hhi⟩ := programWrite_inside_page hp hw hi
  have hmem := List.mem_of_getElem? hb
  obtain ⟨-, hend, -, -⟩ := page_placed_of_admissible hp hmem
  exact (s.insidePage_iff _ _).2 ⟨hpool, ⟨b, hmem, hlo, hhi⟩, by omega⟩

end

/-! ## What the engine's instructions answer (40 R74, R78, R79) -/

/-- Settles O10: each control of the counter is an arm of its own, and none has a check. -/
theorem syncCompletes : Obligations.SyncCompletes := by
  unfold Obligations.SyncCompletes
  exact fun _ => ⟨rfl, rfl, rfl⟩

/-- Settles O13: the alignment check is JUMP's only one. -/
theorem jumpCompletes : Obligations.JumpCompletes := by
  unfold Obligations.JumpCompletes
  exact fun _ target h => if_pos ((targetAligned_iff target).2 h)

/-- Settles O14, by the same check. -/
theorem misalignedJumpIsRefused : Obligations.MisalignedJumpIsRefused := by
  unfold Obligations.MisalignedJumpIsRefused
  exact fun _ target h => if_neg (mt (targetAligned_iff target).1 h)

/-- A WRITE of some bytes inside one page of an allocated pool begins (40 R75). -/
theorem execWrite_of_insidePage {s : State} {sol eol irq1 : Bool} {cnt : WriteCnt} {count : BitVec 12} {dst : Word}
    (hc : count ≠ 0#12) (hin : s.insidePage dst.toNat count.toNat = true) :
    exec (.write sol eol irq1 cnt count dst) s =
      .next { s with engPhase := .inWrite dst 0 count.toNat (writeWord sol eol irq1 cnt count) } := by
  obtain ⟨hpool, hpage, hfit⟩ := (s.insidePage_iff _ _).1 hin
  exact writeBeginsItsTransfer s sol eol irq1 cnt count dst hc hfit hpool hpage

/-! ## The engine's turn (40 R71; log entries 2, 3) -/

/-- With the engine at the agenda's head, or nothing scheduled, one step is the engine's. -/
theorem step_of_engine_next {s : State} {more : List Turn}
    (h : s.agenda = .engine :: more ∨ (s.agenda = [] ∧ more = [])) :
    step s = engineStep (s.setAgenda more) := by
  rcases h with hcons | ⟨hnil, rfl⟩
  · exact step_of_agenda_cons hcons
  · rw [step_of_agenda_nil hnil, ← hnil, State.setAgenda_agenda_self]
    rfl

/-- Settles O6: the fetch does not read the agenda. -/
theorem stepRunsTheDecodedInstruction : Obligations.StepRunsTheDecodedInstruction := by
  unfold Obligations.StepRunsTheDecodedInstruction
  intro s i rest more hnext hr hp hdec
  calc step s = engineStep (s.setAgenda more) := step_of_engine_next hnext
    _ = fetchStep (s.setAgenda more) := engineStep_of_atFetch hr hp
    _ = exec i (s.setAgenda more) := fetchStep_of_decode (s := s.setAgenda more) hdec

/-- Settles O7: the turn is the engine's, which has no step. -/
theorem stoppedEngineDoesNotMove : Obligations.StoppedEngineDoesNotMove := by
  unfold Obligations.StoppedEngineDoesNotMove
  exact fun s more hnext hstop =>
    (step_of_engine_next hnext).trans (engineStep_of_stopped (s := s.setAgenda more) hstop)

/-! ## The last byte of a WRITE (40 R75 to R77) -/

theorem engineStep_of_last_byte {s : State} {dst : Word} {done : Nat} {sol eol irq1 : Bool} {cnt : WriteCnt}
    {count : BitVec 12} (hr : s.engRun = .running)
    (hp : s.engPhase = .inWrite dst done (done + 1) (writeWord sol eol irq1 cnt count))
    (hpage : s.insidePage (dst.toNat + done) 1 = true) :
    engineStep s = .next { s with
      mem := s.mem.write (dst.toNat + done) s.nextSample, draws := s.afterSample.draws,
      gpcnt := countedGpcnt s.par.lastCnt cnt s.gpcnt, irq1Stat := s.irq1Stat || irq1,
      epc := s.epc + 8#32, engPhase := .atFetch } := by
  rw [engineStep_of_inWrite hr hp, writeByteStep_of_last hpage, State.landSample_eq, finishWrite_writeWord]

/-- Settles O16: `countedGpcnt` is R76's table, and the 16-bit sum is the sum modulo 65536. -/
theorem writeLastByteCountsAndRequests : Obligations.WriteLastByteCountsAndRequests := by
  unfold Obligations.WriteLastByteCountsAndRequests
  intro s dst done sol eol irq1 cnt count hm hr hp hpage
  refine ⟨_, engineStep_of_last_byte hr hp hpage, rfl, ?_, ?_, ?_, ?_, ?_, ?_⟩
  · rw [State.sampleAhead_zero]; exact Memory.read_write_same hm _ _
  · exact fun a ha => Memory.read_write_other hm ha _
  · rintro rfl; rfl
  · rintro rfl; exact BitVec.toNat_add _ _
  · rintro rfl hwrap; rw [hwrap]; exact BitVec.toNat_add _ _
  · rintro rfl hzero; rw [hzero]; rfl

/-! ## The engine on the generated program (40 R72, R81, R82) -/

section

variable {s : State} {w : Nat}

theorem engineStep_next_at_sync (hp : s.par.Admissible) (hl : s.ProgramLoaded) (hr : s.engRun = .running)
    (hphase : s.engPhase = .atFetch) (hepc : s.epc = s.par.progBase) : ∃ t, engineStep s = .next t := by
  obtain ⟨rest, hdec⟩ := decode_fetchBytes_sync hp hl hepc
  rw [engineStep_of_atFetch hr hphase, fetchStep_of_decode hdec]
  exact ⟨_, rfl⟩

theorem engineStep_next_at_write (hp : s.par.Admissible) (hl : s.ProgramLoaded) (hr : s.engRun = .running)
    (hpool : s.pool = .allocated) (hw : w < 2 * s.par.numPages)
    (hepc : s.epc.toNat = s.par.progBase.toNat + 4 + 8 * w) (hphase : s.engPhase = .atFetch) :
    ∃ t, engineStep s = .next t := by
  have hcount := clusterCount_ne_zero hp
  obtain ⟨irq1, dst, hi⟩ := programInstrs_getElem?_write hw
  obtain ⟨rest, hdec⟩ := decode_fetchBytes_instr hp hl (by omega) hepc hi (by simpa [Instr.wellFormed] using hcount)
  rw [engineStep_of_atFetch hr hphase, fetchStep_of_decode hdec,
    execWrite_of_insidePage hcount (programWrite_insidePage hp hpool hw hi)]
  exact ⟨_, rfl⟩

/-- The JUMP's target, behind the one-word SYNC, is a multiple of 4 (41 R93). -/
theorem engineStep_next_at_jump (hp : s.par.Admissible) (hl : s.ProgramLoaded) (hr : s.engRun = .running)
    (hepc : s.epc.toNat = s.par.progBase.toNat + 4 + 8 * (2 * s.par.numPages)) (hphase : s.engPhase = .atFetch) :
    ∃ t, engineStep s = .next t := by
  obtain ⟨rest, hdec⟩ := decode_fetchBytes_instr hp hl (Nat.le_refl _) hepc (programInstrs_getElem?_jump s.par) rfl
  obtain ⟨-, -, -, hal, -⟩ := hp
  rw [engineStep_of_atFetch hr hphase, fetchStep_of_decode hdec, jumpCompletes s _ (aligned_add hal rfl)]
  exact ⟨_, rfl⟩

/-- The byte lies in the WRITE's page, and the counter code at the end is one the encoder gave. -/
theorem engineStep_next_in_write (hp : s.par.Admissible) (hr : s.engRun = .running) (hpool : s.pool = .allocated)
    (hw : w < 2 * s.par.numPages) {sol eol irq1 : Bool} {cnt : WriteCnt} {count : BitVec 12} {dst : Word} {done : Nat}
    (hi : (programInstrs s.par)[w + 1]? = some (.write sol eol irq1 cnt count dst)) (hdone : done < count.toNat)
    (hphase : s.engPhase = .inWrite dst done count.toNat (writeWord sol eol irq1 cnt count)) :
    ∃ t, engineStep s = .next t := by
  have hbyte : s.insidePage (dst.toNat + done) 1 = true :=
    State.insidePage_part (programWrite_insidePage hp hpool hw hi) (by omega) (by omega)
  by_cases hlast : done + 1 = count.toNat
  · rw [← hlast] at hphase
    exact ⟨_, engineStep_of_last_byte hr hphase hbyte⟩
  · exact ⟨_, (engineStep_of_inWrite hr hphase).trans (writeByteStep_of_not_last hbyte hlast)⟩

theorem engineStep_next_of_onProgram (hp : s.par.Admissible) (hl : s.ProgramLoaded) (hr : s.engRun = .running)
    (hpool : s.pool = .allocated) (hs : s.OnProgram) : ∃ t, engineStep s = .next t := by
  obtain ⟨hphase, hepc⟩ | ⟨-, w, ⟨hw, hepc, hphase | ⟨_, _, _, _, _, _, _, hi, hdone, hphase⟩⟩, -⟩ := hs
  · exact engineStep_next_at_sync hp hl hr hphase hepc
  · rcases hw.lt_or_eq with hlt | rfl
    · exact engineStep_next_at_write hp hl hr hpool hlt hepc hphase
    · exact engineStep_next_at_jump hp hl hr hepc hphase
  · exact engineStep_next_in_write hp hr hpool (lt_of_programInstrs_write hw hi) hi hdone hphase

end

/-- Settles O25: a stopped engine's turn changes nothing, and a running one is at an instruction that answers. -/
theorem theProgramRunNeverStops : Obligations.TheProgramRunNeverStops := by
  unfold Obligations.TheProgramRunNeverStops
  rintro s ⟨hp, -, hload, hrun⟩
  cases hr : s.engRun with
  | stopped => exact ⟨s, engineStep_of_stopped hr⟩
  | running =>
    obtain ⟨hpool, hbuilt, hon⟩ := hrun hr
    exact engineStep_next_of_onProgram hp (hload hbuilt) hr hpool hon

/-- Settles O26: the WRITE in progress is the program's WRITE `w`, which lies in page `w / 2`, and that is the page
the invariant's counter names. -/
theorem thePageBeingWrittenIsTheCountersPage : Obligations.ThePageBeingWrittenIsTheCountersPage := by
  unfold Obligations.ThePageBeingWrittenIsTheCountersPage
  rintro s dst done count w0 ⟨hp, -, -, hrun⟩ hr hphase
  obtain ⟨-, -, ⟨hfetch, -⟩ | ⟨-, w, ⟨hw, -, hat⟩, hcnt⟩⟩ := hrun hr
  · exact absurd (hphase.symm.trans hfetch) nofun
  · obtain hfetch | ⟨_, _, _, _, _, _, _, hi, -, hin⟩ := hat
    · exact absurd (hphase.symm.trans hfetch) nofun
    · cases hphase.symm.trans hin
      have hlt := lt_of_programInstrs_write hw hi
      rw [hcnt, Nat.mod_eq_of_lt (by omega)]
      exact programWrite_inside_page hp hlt hi

end Sys2Proof.Machine

/-! # Pool, table and program: what the setup commands answer and write (41_program_builder) -/

namespace Sys2Proof.Machine

open Sys2Proof

/-! ## The admitted sizes (00_scope R8) -/

theorem isPow2UpTo_iff (k n : Nat) : isPow2UpTo k n = true ↔ ∃ e ≤ k, n = 2 ^ e := by
  simp only [isPow2UpTo, List.any_eq_true, List.mem_range, beq_iff_eq, Nat.lt_succ_iff, eq_comm (a := n)]

theorem pageSizeOk_iff (n : Nat) : pageSizeOk n = true ↔ 2 ≤ n ∧ ∃ e ≤ 12, n = 2 ^ e := by
  rw [pageSizeOk, Bool.and_eq_true, decide_eq_true_iff, isPow2UpTo_iff]

theorem ringSizeOk_iff (n : Nat) : ringSizeOk n = true ↔ ∃ e ≤ 16, n = 2 ^ e := isPow2UpTo_iff 16 n

theorem ringSizeOk_of_admissible {p : Params} (hp : p.Admissible) : ringSizeOk p.numPages = true := by
  obtain ⟨-, hring, -⟩ := hp
  exact hring

theorem programBytes_le_progBufSize {p : Params} (hp : p.Admissible) : p.programBytes ≤ p.progBufSize := by
  obtain ⟨-, -, -, -, -, hbuf, -⟩ := hp
  exact hbuf

/-- The descriptor table ends inside the address space (00_scope R8). -/
theorem cdt_fits {p : Params} (hp : p.Admissible) : p.cdtBase.toNat + p.cdtBytes ≤ addressSpace := by
  obtain ⟨-, -, -, -, -, -, -, hfit, -⟩ := hp
  exact hfit

theorem cdtEntries_bytes (p : Params) : 4 * (cdtEntries p).length = p.cdtBytes := by
  rw [cdtEntries_length, Params.cdtBytes]; omega

/-- A page's high cluster slot lies inside the address space, so its address does not wrap (00_scope R8). -/
theorem toNat_highSlot {p : Params} (hp : p.Admissible) {b : Word} (hb : b ∈ p.pageBases) :
    (b + clusterWord p).toNat = b.toNat + p.clusterSize := by
  obtain ⟨htwo, -⟩ := pageSize_bounds hp
  obtain ⟨-, hend, -⟩ := page_placed_of_admissible hp hb
  exact toNat_add_of_fits (by simp only [Params.clusterSize]; omega)

/-! ## Words at their places (20_memory R37) -/

theorem Memory.readWords_getElem? (m : Memory) (a : Nat) {n j : Nat} (hj : j < n) :
    (m.readWords a n)[j]? = some (m.readWord (a + 4 * j)) := by
  induction n generalizing a j with
  | zero => omega
  | succ n ih =>
    cases j with
    | zero => rfl
    | succ j =>
      rw [Memory.readWords, List.getElem?_cons_succ, ih (a + 4) (by omega), Nat.add_assoc a 4,
        Nat.mul_succ, Nat.add_comm 4]

theorem Memory.eq_readWords_iff (m : Memory) (a : Nat) (ws : List Word) :
    ws = m.readWords a ws.length ↔ ∀ j < ws.length, ws[j]? = some (m.readWord (a + 4 * j)) := by
  constructor
  · intro h j hj
    rw [h, Memory.readWords_getElem? m a hj]
  · intro h
    refine List.ext_getElem? fun j => ?_
    by_cases hj : j < ws.length
    · rw [h j hj, Memory.readWords_getElem? m a hj]
    · rw [List.getElem?_eq_none (by omega), List.getElem?_eq_none (by rw [Memory.readWords_length]; omega)]

/-- Two memories with the same words written at the same place agree there. -/
theorem Memory.read_writeWords_congr {m m' : Memory} (hm : m.wf = true) (hm' : m'.wf = true) {a x : Nat}
    {ws : List Word} (hfit : a + 4 * ws.length ≤ addressSpace) (hlo : a ≤ x) (hhi : x < a + 4 * ws.length) :
    (m.writeWords a ws).read x = (m'.writeWords a ws).read x := by
  have hfit' : a + (bytesOfWords ws).length ≤ addressSpace := by rwa [bytesOfWords_length]
  have hbyte : x - a < (bytesOfWords ws).length := by rw [bytesOfWords_length]; omega
  rw [Memory.writeWords, Memory.writeWords, Memory.read_writeBytes hm hfit', Memory.read_writeBytes hm' hfit',
    if_pos hlo, if_pos hlo, List.getElem?_eq_getElem hbyte]
  rfl

/-! ## The generated program and the table (41 R86, R89 to R92) -/

/-- Page `i`'s two WRITEs, `irqt` being the builder's interrupt counter before the first page (41 R89, R91, R92). -/
theorem pageInstrs_of_page (p : Params) (irqt : Nat) {bases : List Word} {i : Nat} {b : Word}
    (hb : bases[i]? = some b) :
    (pageInstrs p irqt bases)[2 * i]? = some (.write true true false .none (clusterCount p) b) ∧
    (pageInstrs p irqt bases)[2 * i + 1]? =
      some (.write true true (decide ((irqt + i + 1) % p.irqPeriod = 0))
        (if i + 1 = bases.length then .last else .inc) (clusterCount p) (b + clusterWord p)) := by
  induction bases generalizing irqt i with
  | nil => simp at hb
  | cons c rest ih =>
    cases i with
    | zero =>
      obtain rfl : c = b := by simpa using hb
      have hlast : rest.isEmpty = true ↔ 0 + 1 = (c :: rest).length := by cases rest <;> simp
      exact ⟨rfl, by simp only [← hlast]; rfl⟩
    | succ i =>
      have hcount : ((irqt + 1) % p.irqPeriod + i + 1) % p.irqPeriod = (irqt + (i + 1) + 1) % p.irqPeriod := by
        rw [Nat.add_assoc, Nat.mod_add_mod]; congr 1; omega
      have hlast : i + 1 + 1 = (c :: rest).length ↔ i + 1 = rest.length := by simp
      have hrest := ih ((irqt + 1) % p.irqPeriod) (by simpa using hb)
      simp only [hcount, ← hlast] at hrest
      exact hrest

/-- What page `i`'s two WRITEs are in the program, the SYNC standing before them. -/
theorem programInstrs_of_page {p : Params} {i : Nat} {b : Word} (hb : p.pageBases[i]? = some b) :
    (programInstrs p)[2 * i + 1]? = some (.write true true false .none (clusterCount p) b) ∧
    (programInstrs p)[2 * i + 1 + 1]? =
      some (.write true true (decide ((i + 1) % p.irqPeriod = 0)) (if i + 1 = p.numPages then .last else .inc)
        (clusterCount p) (b + clusterWord p)) := by
  obtain ⟨hi, -⟩ := List.getElem?_eq_some_iff.1 hb
  obtain ⟨hlow, hhigh⟩ := pageInstrs_of_page p 0 hb
  rw [Nat.zero_add] at hhigh
  have hlen := pageInstrs_length p 0 p.pageBases
  simp only [programInstrs, List.getElem?_cons_succ]
  rw [List.getElem?_append_left (by omega), List.getElem?_append_left (by omega)]
  exact ⟨hlow, hhigh⟩

/-- Settles O37: the interrupt counter before page `i` is `i mod K`, by induction on the pages. -/
theorem builderPlacesRequestsAndTags : Obligations.BuilderPlacesRequestsAndTags := by
  unfold Obligations.BuilderPlacesRequestsAndTags
  intro p i b hb
  rw [Nat.add_comm 1, Nat.add_comm 2]
  exact programInstrs_of_page hb

/-- The program's WRITE destinations in program order are the table's entries (41 R86, R96). -/
theorem pageInstrs_writeDsts (p : Params) (irqt : Nat) (bases : List Word) :
    (pageInstrs p irqt bases).filterMap writeDst = bases.flatMap fun b => [b, b + clusterWord p] := by
  induction bases generalizing irqt with
  | nil => rfl
  | cons b rest ih => simp [pageInstrs, writeDst, ih]

theorem programInstrs_writeDsts (p : Params) : (programInstrs p).filterMap writeDst = cdtEntries p := by
  rw [programInstrs, List.filterMap_cons_none rfl, List.filterMap_append, pageInstrs_writeDsts]
  exact List.append_nil _

theorem cdtEntries_getElem? {p : Params} {j : Nat} {b : Word} (hb : p.pageBases[j / 2]? = some b) :
    (cdtEntries p)[j]? = some (if j % 2 = 0 then b else b + clusterWord p) := by
  rw [cdtEntries]
  generalize p.pageBases = bases at hb
  induction bases generalizing j with
  | nil => simp at hb
  | cons c rest ih =>
    match j with
    | 0 | 1 =>
      obtain rfl : c = b := by simpa using hb
      rfl
    | j + 2 =>
      rw [Nat.add_div_right j (by decide), List.getElem?_cons_succ] at hb
      rw [Nat.add_mod_right]
      exact ih hb

/-- `cdt_matches` compares the words at CDT_BASE with the table BUILD_CDT writes (41 R96). -/
theorem State.cdtMatches_iff (s : State) :
    s.cdtMatches = true ↔ s.mem.readWords s.par.cdtBase.toNat (cdtEntries s.par).length = cdtEntries s.par := by
  rw [State.cdtMatches, beq_iff_eq, programInstrs_writeDsts, cdtEntries_length]

section

variable {p q : Params} (hsize : q.pageSize = p.pageSize) (hpages : q.pageBases = p.pageBases)
include hsize

theorem pageInstrs_congr (hirq : q.irqPeriod = p.irqPeriod) (irqt : Nat) (bases : List Word) :
    pageInstrs q irqt bases = pageInstrs p irqt bases := by
  induction bases generalizing irqt with
  | nil => rfl
  | cons b rest ih => simp only [pageInstrs, clusterCount, clusterWord, Params.clusterSize, hsize, hirq, ih]

include hpages

/-- The program is a function of `P`, `PAGE_BASE`, `K` and `PROG_BASE` (41 R95). -/
theorem programWords_congr (hirq : q.irqPeriod = p.irqPeriod) (hbase : q.progBase = p.progBase) :
    programWords q = programWords p := by
  rw [programWords, programWords, programInstrs, programInstrs, hpages, hbase, pageInstrs_congr hsize hirq]

/-- The table is a function of `P` and `PAGE_BASE` (41 R95). -/
theorem cdtEntries_congr : cdtEntries q = cdtEntries p := by
  simp only [cdtEntries, clusterWord, Params.clusterSize, hsize, hpages]

end

/-- A WRITE's control word as a number, with SOL and EOL as the builder sets them (30_encoding R57, 41 R89). -/
theorem toNat_writeWord (irq1 : Bool) (cnt : WriteCnt) (count : BitVec 12) :
    (writeWord true true irq1 cnt count).toNat =
      0x1C000000 + count.toNat + (if irq1 then 2 ^ 24 else 0) + (writeCntBits cnt).toNat * 2 ^ 16 := by
  rw [writeWord, BitVec.toNat_append, ← Nat.shiftLeft_add_eq_or_of_lt count.isLt, Nat.shiftLeft_eq]
  cases irq1 <;> cases cnt <;> simp [writeCntBits] <;> omega

/-! ## BUILD_CDT (41 R86, R87, R96) -/

theorem State.returned_error_ne_ok (s : State) :
    (s.returned .configurationError).results ≠ s.results ++ [.ok] := by
  simp [State.returned]

section

variable {s : State}

theorem buildCdt_of_unallocated (hstop : s.engRun = .stopped) (hpool : s.pool = .unallocated) :
    buildCdt s = .refused .buildWithoutPool := by
  simp [buildCdt, hstop, hpool]

theorem buildCdt_of_bad_ring (hstop : s.engRun = .stopped) (hpool : s.pool = .allocated)
    (hring : ringSizeOk s.par.numPages = false) : buildCdt s = .next (s.returned .configurationError) := by
  simp [buildCdt, hstop, hpool, hring]

theorem buildCdt_of_admissible (hstop : s.engRun = .stopped) (hpool : s.pool = .allocated) (hp : s.par.Admissible) :
    buildCdt s =
      .next (((s.setMem (s.mem.writeWords s.par.cdtBase.toNat (cdtEntries s.par))).setCdtBuilt true).returned .ok) := by
  simp [buildCdt, hstop, hpool, ringSizeOk_of_admissible hp, Nat.not_lt.2 (cdt_fits hp)]

theorem buildCdt_mem_of_ok {t : State} (h : buildCdt s = .next t) (hok : t.results = s.results ++ [.ok]) :
    t.mem = s.mem.writeWords s.par.cdtBase.toNat (cdtEntries s.par) := by
  unfold buildCdt at h
  split_ifs at h <;> cases h
  · exact absurd hok s.returned_error_ne_ok
  · rfl

/-- The table reads back as BUILD_CDT writes it. -/
theorem readWords_cdt (hm : s.MemOk) (hp : s.par.Admissible) :
    (s.mem.writeWords s.par.cdtBase.toNat (cdtEntries s.par)).readWords s.par.cdtBase.toNat (cdtEntries s.par).length
      = cdtEntries s.par :=
  Memory.readWords_writeWords hm (by rw [cdtEntries_bytes]; exact cdt_fits hp)

/-- Entry `j` of the table BUILD_CDT writes (41 R87). -/
theorem readWord_cdt (hm : s.MemOk) (hp : s.par.Admissible) {j : Nat} {b : Word}
    (hb : s.par.pageBases[j / 2]? = some b) :
    ((s.mem.writeWords s.par.cdtBase.toNat (cdtEntries s.par)).readWord (s.par.cdtBase.toNat + 4 * j)).toNat =
      b.toNat + j % 2 * s.par.clusterSize := by
  have hentry := cdtEntries_getElem? hb
  obtain ⟨hj, -⟩ := List.getElem?_eq_some_iff.1 hentry
  have hword := Memory.readWords_getElem? (s.mem.writeWords s.par.cdtBase.toNat (cdtEntries s.par))
    s.par.cdtBase.toNat hj
  rw [readWords_cdt hm hp, hentry] at hword
  rw [← Option.some.inj hword]
  rcases Nat.mod_two_eq_zero_or_one j with hlow | hhigh
  · simp [hlow]
  · simp [hhigh, toNat_highSlot hp (List.mem_of_getElem? hb)]

end

/-- Settles O35: the entries read back as they were written, and no page's high slot wraps. -/
theorem buildCdtWritesTheAddressLaw : Obligations.BuildCdtWritesTheAddressLaw := by
  unfold Obligations.BuildCdtWritesTheAddressLaw
  intro s hstop
  refine ⟨fun hpool => ?_, fun hpool hring => ?_, fun hpool hm hp => ?_⟩
  · exact buildCdt_of_unallocated hstop hpool
  · rw [← ringSizeOk_iff, Bool.not_eq_true] at hring
    exact buildCdt_of_bad_ring hstop hpool hring
  · refine ⟨_, buildCdt_of_admissible hstop hpool hp, rfl, fun j b _ hb => readWord_cdt hm hp hb, fun a ha => ?_⟩
    have hbytes : 4 * (cdtEntries s.par).length = 8 * s.par.numPages := cdtEntries_bytes s.par
    exact Memory.read_writeWords_of_outside hm (by rw [cdtEntries_bytes]; exact cdt_fits hp) (by rwa [hbytes])

/-! ## BUILD_PROGRAM (41 R88, R89, R94, R96) -/

section

variable {s : State}

theorem buildProgram_of_unallocated (hstop : s.engRun = .stopped) (hpool : s.pool = .unallocated) :
    buildProgram s = .refused .buildWithoutPool := by
  simp [buildProgram, hstop, hpool]

theorem buildProgram_of_bad_size (hstop : s.engRun = .stopped) (hpool : s.pool = .allocated)
    (hbad : ringSizeOk s.par.numPages = false ∨ s.par.progBufSize < s.par.programBytes) :
    buildProgram s = .next (s.returned .configurationError) := by
  rcases hbad with hring | hbuf
  · simp [buildProgram, hstop, hpool, hring]
  · simp [buildProgram, hstop, hpool, hbuf]

theorem buildProgram_of_mismatch (hp : s.par.Admissible) (hstop : s.engRun = .stopped) (hpool : s.pool = .allocated)
    (hbuilt : s.cdtBuilt = true) (hcdt : s.cdtMatches = false) :
    buildProgram s = .next (s.returned .configurationError) := by
  simp [buildProgram, hstop, hpool, ringSizeOk_of_admissible hp, hbuilt, hcdt]

theorem buildProgram_of_admissible (hstop : s.engRun = .stopped) (hpool : s.pool = .allocated)
    (hp : s.par.Admissible) (hcdt : s.cdtBuilt = true → s.cdtMatches = true) :
    buildProgram s =
      .next (((s.setMem (s.mem.writeWords s.par.progBase.toNat (programWords s.par))).setProgBuilt true).returned
        .ok) := by
  have hfit : s.par.progBase.toNat + s.par.programBytes ≤ addressSpace := program_fits hp
  have hagree : ¬ (s.cdtBuilt = true ∧ s.cdtMatches = false) := fun ⟨hb, hc⟩ => by simp [hcdt hb] at hc
  rw [buildProgram, if_neg (by simp [hstop]), if_neg (by simp [hpool]), if_neg (by simp [ringSizeOk_of_admissible hp]),
    if_neg (Nat.not_lt.2 (programBytes_le_progBufSize hp)), if_neg hagree, if_neg (Nat.not_lt.2 hfit)]

theorem buildProgram_mem_of_ok {t : State} (h : buildProgram s = .next t) (hok : t.results = s.results ++ [.ok]) :
    t.mem = s.mem.writeWords s.par.progBase.toNat (programWords s.par) := by
  unfold buildProgram at h
  split_ifs at h <;> cases h
  · exact absurd hok s.returned_error_ne_ok
  · exact absurd hok s.returned_error_ne_ok
  · exact absurd hok s.returned_error_ne_ok
  · rfl

/-- The two words of a WRITE of the loaded program, at their addresses. -/
theorem readWord_write_of_programLoaded (h : s.ProgramLoaded) {w : Nat} {irq1 : Bool} {cnt : WriteCnt}
    {count : BitVec 12} {dst : Word} (hi : (programInstrs s.par)[w + 1]? = some (.write true true irq1 cnt count dst)) :
    (s.mem.readWord (s.par.progBase.toNat + 4 + 8 * w)).toNat =
        0x1C000000 + count.toNat + (if irq1 then 2 ^ 24 else 0) + (writeCntBits cnt).toNat * 2 ^ 16 ∧
      s.mem.readWord (s.par.progBase.toNat + 8 + 8 * w) = dst := by
  have hwords := readWords_instr_of_programLoaded h hi
  simp only [Memory.readWords, encode, List.cons.injEq, and_true] at hwords
  obtain ⟨hcontrol, hdst⟩ := hwords
  refine ⟨by rw [hcontrol, toNat_writeWord], ?_⟩
  rwa [show s.par.progBase.toNat + 8 + 8 * w = s.par.progBase.toNat + 4 + 8 * w + 4 by omega]

/-- The JUMP's two words (41 R93). -/
theorem readWord_jump_of_programLoaded (h : s.ProgramLoaded) :
    s.mem.readWord (s.par.progBase.toNat + 4 + 16 * s.par.numPages) = 0x70000000#32 ∧
      s.mem.readWord (s.par.progBase.toNat + 8 + 16 * s.par.numPages) = s.par.progBase + 4#32 := by
  have hwords := readWords_instr_of_programLoaded h (programInstrs_getElem?_jump s.par)
  rw [show s.par.progBase.toNat + 4 + 8 * (2 * s.par.numPages) = s.par.progBase.toNat + 4 + 16 * s.par.numPages by
    omega] at hwords
  simp only [Memory.readWords, encode, List.cons.injEq, and_true] at hwords
  obtain ⟨hcontrol, htarget⟩ := hwords
  refine ⟨hcontrol, ?_⟩
  rwa [show s.par.progBase.toNat + 8 + 16 * s.par.numPages = s.par.progBase.toNat + 4 + 16 * s.par.numPages + 4 by
    omega]

/-- The four words of page `i` in the loaded program (41 R89, R91, R92). -/
theorem readWord_page_of_programLoaded (h : s.ProgramLoaded) (hp : s.par.Admissible) {i : Nat} {b : Word}
    (hb : s.par.pageBases[i]? = some b) :
    (s.mem.readWord (s.par.progBase.toNat + 4 + 16 * i)).toNat = 0x1C000000 + s.par.clusterSize ∧
    s.mem.readWord (s.par.progBase.toNat + 8 + 16 * i) = b ∧
    (s.mem.readWord (s.par.progBase.toNat + 12 + 16 * i)).toNat = 0x1C000000 + s.par.clusterSize
      + (if (i + 1) % s.par.irqPeriod = 0 then 2 ^ 24 else 0) + (if i + 1 = s.par.numPages then 3 else 1) * 2 ^ 16 ∧
    (s.mem.readWord (s.par.progBase.toNat + 16 + 16 * i)).toNat = b.toNat + s.par.clusterSize := by
  obtain ⟨hlow, hhigh⟩ := programInstrs_of_page hb
  obtain ⟨hlow0, hlow1⟩ := readWord_write_of_programLoaded h hlow
  obtain ⟨hhigh0, hhigh1⟩ := readWord_write_of_programLoaded h hhigh
  have hcnt : (writeCntBits (if i + 1 = s.par.numPages then .last else .inc)).toNat =
      if i + 1 = s.par.numPages then 3 else 1 := by split_ifs <;> rfl
  rw [toNat_clusterCount hp] at hlow0 hhigh0
  simp only [decide_eq_true_eq, hcnt] at hhigh0
  refine ⟨?_, ?_, ?_, ?_⟩
  · rw [show s.par.progBase.toNat + 4 + 16 * i = s.par.progBase.toNat + 4 + 8 * (2 * i) by omega, hlow0]; rfl
  · rwa [show s.par.progBase.toNat + 8 + 16 * i = s.par.progBase.toNat + 8 + 8 * (2 * i) by omega]
  · rwa [show s.par.progBase.toNat + 12 + 16 * i = s.par.progBase.toNat + 4 + 8 * (2 * i + 1) by omega]
  · rw [show s.par.progBase.toNat + 16 + 16 * i = s.par.progBase.toNat + 8 + 8 * (2 * i + 1) by omega, hhigh1,
      toNat_highSlot hp (List.mem_of_getElem? hb)]

end

/-- Settles O36: the built program is loaded, so each instruction's words stand at its place. -/
theorem buildProgramWritesTheLayout : Obligations.BuildProgramWritesTheLayout := by
  unfold Obligations.BuildProgramWritesTheLayout
  intro s hstop
  refine ⟨fun hpool => ?_, fun hpool hbad => ?_, fun hpool hm hp hcdt => ?_⟩
  · exact buildProgram_of_unallocated hstop hpool
  · rw [← ringSizeOk_iff, Bool.not_eq_true] at hbad
    exact buildProgram_of_bad_size hstop hpool hbad
  · have hl : (((s.setMem (s.mem.writeWords s.par.progBase.toNat (programWords s.par))).setProgBuilt true).returned
        .ok).ProgramLoaded := programLoaded_of_written hp hm rfl rfl
    refine ⟨_, buildProgram_of_admissible hstop hpool hp hcdt, rfl,
      ⟨(readWords_of_programLoaded hl).1, fun i b => readWord_page_of_programLoaded hl hp,
        readWord_jump_of_programLoaded hl⟩, fun a ha => ?_⟩
    have hbytes : 4 * (programWords s.par).length = 16 * s.par.numPages + 12 := programWords_bytes s.par
    exact Memory.read_writeWords_of_outside hm (by rw [hbytes]; exact program_fits hp) (by omega)

/-- Settles O38: the program's WRITE destinations are the table's entries, word for word. -/
theorem tablesBuiltFromOnePoolAgree : Obligations.TablesBuiltFromOnePoolAgree := by
  unfold Obligations.TablesBuiltFromOnePoolAgree
  refine ⟨fun s t hm hp hstop hpool h => ?_, fun s => ?_, fun s hp hstop hpool hbuilt hcdt => ?_⟩
  · cases (buildCdt_of_admissible hstop hpool hp).symm.trans h
    exact (State.cdtMatches_iff _).2 (readWords_cdt hm hp)
  · rw [State.cdtMatches_iff, programInstrs_writeDsts, eq_comm, ← cdtEntries_length]
    exact Memory.eq_readWords_iff ..
  · exact buildProgram_of_mismatch hp hstop hpool hbuilt hcdt

/-- Settles O39: what a build writes is a function of the parameters it names. -/
theorem buildsAreDeterministic : Obligations.BuildsAreDeterministic := by
  unfold Obligations.BuildsAreDeterministic
  intro s1 s2 t1 t2 hm1 hm2 hp1 _ hsize hpages hok1 hok2
  refine ⟨fun hirq hbase h1 h2 a hlo hhi => ?_, fun hbase h1 h2 a hlo hhi => ?_⟩
  · rw [buildProgram_mem_of_ok h1 hok1, buildProgram_mem_of_ok h2 hok2, hbase,
      programWords_congr hsize hpages hirq hbase]
    rw [← programWords_bytes] at hhi
    exact Memory.read_writeWords_congr hm1 hm2 (by rw [programWords_bytes]; exact program_fits hp1) hlo hhi
  · rw [buildCdt_mem_of_ok h1 hok1, buildCdt_mem_of_ok h2 hok2, hbase, cdtEntries_congr hsize hpages]
    rw [← cdtEntries_bytes] at hhi
    exact Memory.read_writeWords_congr hm1 hm2 (by rw [cdtEntries_bytes]; exact cdt_fits hp1) hlo hhi

/-! ## ALLOCATE, FREE, START and STOP (41 R84, R85, R98, R99) -/

section

variable {s : State} {capacity pageSize : Nat}

theorem allocate_of_allocated (hstop : s.engRun = .stopped) (hpool : s.pool = .allocated) :
    allocate capacity pageSize s = .refused .doubleAllocate := by
  simp [allocate, hstop, hpool]

variable (hstop : s.engRun = .stopped) (hpool : s.pool = .unallocated)
include hstop hpool

theorem allocate_of_bad_size (hbad : pageSizeOk pageSize = false ∨ capacity % pageSize ≠ 0) :
    allocate capacity pageSize s = .next (s.returned .configurationError) := by
  rcases hbad with hsize | hcap
  · simp [allocate, hstop, hpool, hsize]
  · simp [allocate, hstop, hpool, hcap]

variable (hsize : pageSizeOk pageSize = true) (hcap : capacity % pageSize = 0)
include hsize hcap

theorem allocate_of_other_geometry (hgeo : pageSize ≠ s.par.pageSize ∨ capacity / pageSize ≠ s.par.numPages) :
    allocate capacity pageSize s = .refused (.allocateOtherGeometry capacity pageSize) := by
  simp [allocate, hstop, hpool, hsize, hcap, hgeo]

/-- The pages are obtained or not, as the environment chooses (41 R84). -/
theorem allocate_of_same_geometry (hpage : pageSize = s.par.pageSize) (hring : capacity / pageSize = s.par.numPages) :
    allocate capacity pageSize s =
      if s.nextAlloc then .next ((s.afterAlloc.fillPages.setPool .allocated).returned .ok)
      else .next (s.afterAlloc.returned .allocationError) := by
  simp [allocate, hstop, hpool, hsize, hcap, ← hpage, hring]

end

/-- Settles O31: the branches of ALLOCATE in its order of checks. -/
theorem allocateOutcomes : Obligations.AllocateOutcomes := by
  unfold Obligations.AllocateOutcomes
  intro s capacity pageSize
  refine ⟨fun hrun => ?_, fun hstop hpool => ?_, fun hstop hpool => ⟨fun hbad => ?_, fun hsize hcap hgeo => ?_,
    fun hsize hcap hpage hring => ?_⟩⟩
  · exact if_pos hrun
  · exact allocate_of_allocated hstop hpool
  · rw [← pageSizeOk_iff, Bool.not_eq_true] at hbad
    exact allocate_of_bad_size hstop hpool hbad
  · exact allocate_of_other_geometry hstop hpool ((pageSizeOk_iff _).2 hsize) hcap hgeo
  · have hanswer := allocate_of_same_geometry hstop hpool ((pageSizeOk_iff _).2 hsize) hcap hpage hring
    cases hdraw : s.nextAlloc with
    | true =>
      rw [hdraw, if_pos rfl] at hanswer
      refine ⟨_, hanswer, fun _ => ?_, nofun⟩
      rw [State.fillPages_eq, State.afterAlloc_eq]
      exact ⟨rfl, fun hfills => by simp [State.returned, hfills, fillCells],
        fun cells rest hfills => by simp [State.returned, hfills]⟩
    | false =>
      rw [hdraw, if_neg nofun] at hanswer
      refine ⟨_, hanswer, nofun, fun _ => ?_⟩
      rw [State.afterAlloc_eq]
      rfl

/-- Settles O33: FREE has one check, and its three updates are the released pool, table and program. -/
theorem freeOutcomes : Obligations.FreeOutcomes := by
  unfold Obligations.FreeOutcomes
  refine fun s => ⟨fun huse => ?_, fun hstop hidle => ?_⟩
  · exact if_pos huse
  · exact if_neg (by simp [hstop, hidle])

/-- START's register writes together (41 R98): `IRQ1_STAT` is written 1, which clears it. -/
theorem State.launch_of_stopped {s : State} (hstop : s.engRun = .stopped) :
    s.launch = { s with irq1Stat := false, dmaPtr := s.par.progBase, dmaCdtPtr := s.par.cdtBase,
                        dmaCdtSize := BitVec.ofNat 32 s.par.cdtBytes, vidEn := true, epc := s.par.progBase,
                        engPhase := .atFetch, engRun := .running, synced := false } := by
  have hclear : s.storeReg .vidIntstat (1#32 <<< s.par.fieldBit.irq1Stat.val) = s.setIrq1Stat false := by
    simp [State.storeReg, s.par.fieldBit.irq1Stat.isLt]
  rw [State.launch, hclear, State.writeDmaEn_start (by exact hstop)]
  rfl

/-- Settles O40: the two checks in their order, then START's register writes together. -/
theorem startOutcomes : Obligations.StartOutcomes := by
  unfold Obligations.StartOutcomes
  refine fun s => ⟨fun hrun => ?_, fun hstop hunbuilt => ?_, fun hstop hpool hcdt hprog => ?_⟩
  · exact if_pos hrun
  · exact (if_neg (by simp [hstop])).trans (if_pos hunbuilt)
  · refine ((if_neg (by simp [hstop])).trans (if_neg (by simp [hpool, hcdt, hprog]))).trans ?_
    rw [State.launch_of_stopped hstop]
    rfl

/-- Settles O41: a 1->0 write of `DMA_EN` stops the engine, a 0->0 write changes nothing (10_state R30). -/
theorem stopOutcomes : Obligations.StopOutcomes := by
  unfold Obligations.StopOutcomes
  refine fun s => ⟨fun hrun => ?_, fun hstop => ?_⟩
  · rw [turnStep, commandStep, stop, State.writeDmaEn_stop hrun]
    rfl
  · have hkept : s.writeDmaEn false = s := by
      simpa [State.dmaEn, hstop] using s.writeDmaEn_same
    rw [turnStep, commandStep, stop, hkept]
    rfl

end Sys2Proof.Machine

/-! # The ring reader: the session, the steps of a READ and what they keep (42_ring_reader) -/

namespace Sys2Proof.Machine

open Sys2Proof

/-! ## Index arithmetic (42 R100 to R103) -/

/-- Settles O43: an admitted `N` divides the counter's range, so the counter's wrap is none modulo `N`. -/
theorem pageOfIsContinuousAcrossTheWrap : Obligations.PageOfIsContinuousAcrossTheWrap := by
  unfold Obligations.PageOfIsContinuousAcrossTheWrap
  refine fun n c => ⟨rfl, ?_⟩
  rintro ⟨e, he, rfl⟩
  rw [pageOf, pageOf, toNat_add_one_mod (Nat.pow_dvd_pow 2 he), Nat.mod_add_mod]

/-- The whole ring's bytes divide the cursor's range, so the wrap of `pos` is whole turns of the ring (42 R103). -/
theorem ringBytes_dvd {p : Params} (hp : p.Admissible) : p.pageSize * p.numPages ∣ 2 ^ 64 := by
  have ⟨hsize, hring, _⟩ := hp
  obtain ⟨-, e, he, hP⟩ := (pageSizeOk_iff _).1 hsize
  obtain ⟨k, hk, hN⟩ := (ringSizeOk_iff _).1 hring
  rw [hP, hN, ← pow_add]
  exact Nat.pow_dvd_pow 2 (by omega)

/-- The page a byte count names is the same before and after the count's wrap. -/
theorem wrap_div_pageSize_mod {p : Params} (hp : p.Admissible) (x : Nat) :
    x % 2 ^ 64 / p.pageSize % p.numPages = x / p.pageSize % p.numPages := by
  obtain ⟨q, hq⟩ := ringBytes_dvd hp
  rw [hq, Nat.mul_assoc, Nat.mod_mul_right_div_self, Nat.mod_mul_right_mod]

/-- Settles O44: a page's bytes add one to the quotient, and the wrap of `pos` is whole turns of the ring. -/
theorem currentPageIsContinuousAcrossTheWrap : Obligations.CurrentPageIsContinuousAcrossTheWrap := by
  unfold Obligations.CurrentPageIsContinuousAcrossTheWrap
  intro p startPage pos hp
  obtain ⟨htwo, hle⟩ := pageSize_bounds hp
  have hP : (BitVec.ofNat 64 p.pageSize).toNat = p.pageSize := 
    (BitVec.toNat_ofNat ..).trans (Nat.mod_eq_of_lt (by omega))
  calc currentPageOf p startPage (pos + BitVec.ofNat 64 p.pageSize)
      = (startPage + (pos.toNat + p.pageSize) % 2 ^ 64 / p.pageSize) % p.numPages := by
        rw [currentPageOf, BitVec.toNat_add, hP]
    _ = (startPage + (pos.toNat + p.pageSize) / p.pageSize) % p.numPages := by
        rw [Nat.add_mod, wrap_div_pageSize_mod hp, ← Nat.add_mod]
    _ = (startPage + pos.toNat / p.pageSize + 1) % p.numPages := by
        rw [Nat.add_div_right _ (by omega), Nat.add_assoc]
    _ = (currentPageOf p startPage pos + 1) % p.numPages := by rw [currentPageOf, Nat.mod_add_mod]

theorem State.sampledPage_lt {s : State} (hp : s.par.Admissible) : s.sampledPage < s.par.numPages :=
  Nat.mod_lt _ (numPages_pos hp)

theorem State.pageOffset_lt {s : State} (hp : s.par.Admissible) : s.pageOffset < s.par.pageSize :=
  Nat.mod_lt _ (by have := pageSize_bounds hp; omega)

/-! ## OPEN, CLOSE and READ's entry (42 R104 to R106, R114) -/

theorem openSession_of_idle {s : State} (hpool : s.pool = .allocated) (hidle : s.sess = .idle) :
    openSession s = .next { s with startPage := s.sampledPage, pos := 0#64, dataReady := false, irq1En := true,
                                   sess := .opened, results := s.results ++ [.ok] } := by
  rw [openSession, if_neg (by simp [hpool]), if_neg (by simp [hidle])]
  simp only [State.returned, State.setSess, State.setIrq1En, State.setDataReady, State.setPos, State.setStartPage,
    State.setResults]

/-- Settles O45: OPEN's two checks in their order. -/
theorem openOutcomes : Obligations.OpenOutcomes := by
  unfold Obligations.OpenOutcomes
  refine fun s => ⟨fun hpool => ?_, fun hpool hopen => ?_, fun hpool hidle => ?_⟩
  · exact if_pos hpool
  · exact (if_neg (by simp [hpool])).trans (if_pos hopen)
  · exact openSession_of_idle hpool hidle

theorem close_of_open {s : State} (hopen : s.sess = .opened) (hctx : s.rdCtx = none) :
    close s = .next { s with irq1En := false, sess := .idle,
                             startPage := Config.freePage s.draws.taken % s.par.numPages,
                             draws := s.afterFree.draws, results := s.results ++ [.ok] } :=
  if_neg (by simp [hopen, hctx])

/-- Settles O46: CLOSE has one check, and the page drawn is brought into the ring. -/
theorem closeOutcomes : Obligations.CloseOutcomes := by
  unfold Obligations.CloseOutcomes
  refine fun s => ⟨fun hbad => ?_, fun hopen hctx => ?_⟩
  · exact if_pos hbad
  · exact ⟨_, close_of_open hopen hctx, rfl, fun hN => Nat.mod_lt _ hN⟩

/-- Settles O47: READ's two checks in their order. -/
theorem readEntryOutcomes : Obligations.ReadEntryOutcomes := by
  unfold Obligations.ReadEntryOutcomes
  intro s max blocking prod cur
  refine ⟨fun hbad => ?_, fun hopen hctx => ?_⟩
  · exact if_pos hbad
  · have hentered : ¬ (s.sess = .idle ∨ s.rdCtx ≠ none) := by simp [hopen, hctx]
    refine ⟨fun hcur hblock => ?_, fun hgo => ?_⟩
    · exact (if_neg hentered).trans (if_pos ⟨hcur, hblock⟩)
    · refine (if_neg hentered).trans (if_neg ?_)
      rintro ⟨hcur, hblock⟩
      exact hgo.elim (· hcur) (by simp [hblock])

/-! ## One step of a READ (42 R107 to R112) -/

section

variable {s : State} {c : ReadCtx} {len i : Nat}

theorem readerStep_of_scan (hc : s.rdCtx = some c) (hph : c.phase = .scan) : readerStep s = readScan c s := by
  simp only [readerStep, hc, hph]

theorem readerStep_of_copy (hc : s.rdCtx = some c) (hph : c.phase = .copy len i) :
    readerStep s = readCopy c len i s := by
  simp only [readerStep, hc, hph]

theorem readerStep_of_zero (hc : s.rdCtx = some c) (hph : c.phase = .zero len i) :
    readerStep s = readZero c len i s := by
  simp only [readerStep, hc, hph]

theorem readerStep_of_resample (hc : s.rdCtx = some c) (hph : c.phase = .resample) :
    readerStep s = readResample c s := by
  simp only [readerStep, hc, hph]

theorem readerStep_of_waiting (hc : s.rdCtx = some c) (hph : c.phase = .waiting) :
    readerStep s = readWaiting c s := by
  simp only [readerStep, hc, hph]

/-! ### Scan (42 R107) -/

theorem readScan_of_ahead (hmore : c.copied < c.max) (hcur : s.currentPage ≠ c.prod) :
    readScan c s = .next (s.setReadPhase c (.copy (s.chunkLen c) 0)) := if_pos ⟨hmore, hcur⟩

theorem readScan_of_done (h : c.copied = c.max ∨ s.currentPage = c.prod ∧ c.blocking = false) :
    readScan c s = .next (s.endRead (.okCount c.copied)) := by
  refine (if_neg ?_).trans (if_pos (h.imp_right And.right))
  rintro ⟨hmore, hcur⟩
  exact h.elim (fun heq => absurd hmore (by simp [heq])) fun h => hcur h.1

theorem readScan_of_resample (hmore : c.copied < c.max) (hcur : s.currentPage = c.prod) (hblock : c.blocking = true) :
    readScan c s = .next (s.setReadPhase c .resample) := by
  have hne : c.copied ≠ c.max := BitVec.ne_of_lt hmore
  exact (if_neg (absurd hcur ·.2)).trans (if_neg (by simp [hne, hblock]))

theorem State.chunkLen_eq (hle : c.copied ≤ c.max) :
    s.chunkLen c = min (s.par.pageSize - s.pageOffset) (c.max.toNat - c.copied.toNat) := by
  rw [State.chunkLen, BitVec.toNat_sub_of_le hle]

/-- A chunk has a byte: the offset is inside the page and bytes are requested. -/
theorem State.chunkLen_pos (hp : s.par.Admissible) (hmore : c.copied < c.max) : 1 ≤ s.chunkLen c := by
  have hoff := State.pageOffset_lt hp
  have hlt := BitVec.lt_def.1 hmore
  rw [State.chunkLen_eq (BitVec.le_of_lt hmore)]
  omega

/-- Settles O48: the scan's branches; that a non-blocking READ which returns at the snapshot has copied something is
the invariant's. -/
theorem scanOutcomes : Obligations.ScanOutcomes := by
  unfold Obligations.ScanOutcomes
  intro s c ⟨hp, _, hread⟩ hc hph
  obtain ⟨-, hle, -, hahead, -⟩ := hread c hc
  have hstep : turnStep .reader s = readScan c s := readerStep_of_scan hc hph
  rw [hstep]
  refine ⟨fun hmore hcur => ?_, fun hdone => ?_, fun hmore hcur hblock => ⟨?_, ?_⟩, fun hmore hcur hblock => ?_⟩
  · exact ⟨s.chunkLen c, State.chunkLen_pos hp hmore, State.chunkLen_eq hle, readScan_of_ahead hmore hcur⟩
  · exact readScan_of_done (.inl hdone)
  · exact Nat.one_le_iff_ne_zero.2 fun hzero => hahead hblock (BitVec.eq_of_toNat_eq hzero) hcur
  · exact readScan_of_done (.inr ⟨hcur, hblock⟩)
  · exact readScan_of_resample hmore hcur hblock

/-! ### Copy and zero (42 R108 to R110) -/

/-- The address of a byte that lies in the current page of an allocated pool. -/
theorem State.readableAddr_of_page {b : Word} (hpool : s.pool = .allocated)
    (hb : s.par.pageBases[s.currentPage]? = some b) (hend : b.toNat + s.par.pageSize ≤ addressSpace)
    (hi : s.pageOffset + i < s.par.pageSize) : s.readableAddr i = some (b.toNat + s.pageOffset + i) := by
  have hin : s.insidePage (b.toNat + s.pageOffset + i) 1 = true :=
    (s.insidePage_iff _ _).2 ⟨hpool, ⟨b, List.mem_of_getElem? hb, by omega, by omega⟩, by omega⟩
  simp only [State.readableAddr, State.chunkAddr, hb, hin, if_true]

theorem State.sinkAhead_zero (s : State) : s.sinkAhead 0 = s.nextSink := by
  cases h : s.draws.sinks <;> simp [State.sinkAhead, State.nextSink, h]

section

variable {a : Nat} (ha : s.readableAddr i = some a)
include ha

theorem readCopy_of_accepted (hsink : s.nextSink = true) :
    readCopy c len i s = .next { s with
      draws := s.afterSink.draws, sink := s.sink ++ [s.mem.read a],
      rdCtx := some { c with phase := if i + 1 < len then .copy len (i + 1) else .zero len 0 } } := by
  simp only [readCopy, ha, hsink, if_true, State.afterSink_eq]
  rfl

theorem readCopy_of_rejected (hsink : s.nextSink = false) :
    readCopy c len i s = .next { s with
      draws := (s.afterSink.spoilChunk len i).draws,
      sink := s.sink.take (s.sink.length - i) ++ s.afterSink.spoiledBytes len,
      rdCtx := none, results := s.results ++ [.fault c.copied] } := by
  simp only [readCopy, ha, hsink, State.spoilChunk_eq, State.afterSink_eq]
  rfl

theorem readZero_of_not_last (hlast : i + 1 < len) :
    readZero c len i s = .next { s with
      mem := s.mem.write a 0#8, rdCtx := some { c with phase := .zero len (i + 1) } } := by
  simp only [readZero, ha]
  exact if_pos hlast

theorem readZero_of_last (hlast : len ≤ i + 1) :
    readZero c len i s = .next { s with
      mem := s.mem.write a 0#8, pos := s.pos + BitVec.ofNat 64 len,
      rdCtx := some { c with copied := c.copied + BitVec.ofNat 64 len, phase := .scan } } := by
  simp only [readZero, ha]
  exact if_neg (Nat.not_lt.2 hlast)

end

/-- Settles O49, by the consumer's answer. -/
theorem copyOutcomes : Obligations.CopyOutcomes := by
  unfold Obligations.CopyOutcomes
  intro s c len i b hc hph hpool hb hend hi
  have hstep : turnStep .reader s = readCopy c len i s := readerStep_of_copy hc hph
  have ha := State.readableAddr_of_page hpool hb hend hi
  rw [hstep, State.sinkAhead_zero]
  cases hsink : s.nextSink with
  | true => exact ⟨_, readCopy_of_accepted ha hsink, fun _ => rfl, nofun⟩
  | false =>
    refine ⟨_, readCopy_of_rejected ha hsink, nofun, fun _ => ⟨rfl, ?_, ?_⟩⟩
    · simp
    · simp

/-- Settles O50: before the last byte and after it, one byte is written. -/
theorem zeroOutcomes : Obligations.ZeroOutcomes := by
  unfold Obligations.ZeroOutcomes
  intro s c len i b hm hc hph hpool hb hend hi
  have hstep : turnStep .reader s = readZero c len i s := readerStep_of_zero hc hph
  have ha := State.readableAddr_of_page hpool hb hend hi
  rw [hstep]
  by_cases hlast : i + 1 < len
  · exact ⟨_, readZero_of_not_last ha hlast, Memory.read_write_same hm _ _,
      fun x hx => Memory.read_write_other hm hx _, fun _ => rfl, fun h => absurd hlast (Nat.not_lt.2 h)⟩
  · exact ⟨_, readZero_of_last ha (Nat.not_lt.1 hlast), Memory.read_write_same hm _ _,
      fun x hx => Memory.read_write_other hm hx _, fun h => absurd h hlast, fun _ => rfl⟩

/-! ### Resample, wait and cancellation (42 R111, R112) -/

theorem readResample_of_ahead (hcur : s.currentPage ≠ s.sampledPage) :
    readResample c s =
      .next { s with dataReady := false, rdCtx := some { c with prod := s.sampledPage, phase := .scan } } := by
  rw [readResample, if_pos hcur]
  rfl

theorem readResample_of_level (hcur : s.currentPage = s.sampledPage) :
    readResample c s =
      .next { s with dataReady := false, rdCtx := some { c with prod := s.sampledPage, phase := .waiting } } := by
  rw [readResample, if_neg (not_not_intro hcur)]
  rfl

/-- Settles O52, by the phase and by what its step tests. -/
theorem blockingWaitOutcomes : Obligations.BlockingWaitOutcomes := by
  unfold Obligations.BlockingWaitOutcomes
  intro s c hc prod
  refine ⟨fun hph hcur => ?_, fun hph hcur => ?_, fun hph hready => ?_, fun hph hready => ?_⟩
  · exact (readerStep_of_resample hc hph).trans (readResample_of_ahead hcur)
  · exact (readerStep_of_resample hc hph).trans (readResample_of_level hcur)
  · exact (readerStep_of_waiting hc hph).trans (if_pos hready)
  · exact (readerStep_of_waiting hc hph).trans (if_neg (by simp [hready]))

theorem cancelStep_of_waiting (hc : s.rdCtx = some c) (hph : c.phase = .waiting) :
    cancelStep s = .next { s with rdCtx := none, results := s.results ++ [.interrupted] } := by
  simp only [cancelStep, hc]
  exact if_pos hph

theorem cancelStep_of_not_waiting (h : ∀ c, s.rdCtx = some c → c.phase ≠ .waiting) : cancelStep s = .next s := by
  unfold cancelStep
  split
  · rfl
  next c hc => exact if_neg (h c hc)

/-- Settles O53: a READ in progress waits or it does not. -/
theorem cancelOutcomes : Obligations.CancelOutcomes := by
  unfold Obligations.CancelOutcomes
  exact fun _ => ⟨fun _ => cancelStep_of_waiting, cancelStep_of_not_waiting⟩

end

/-! ## A whole chunk (42 R108, R109, R115) -/

/-- The bytes of the chunk at the cursor stand at `a` and above it, each where the host may access it. -/
def State.ChunkAt (s : State) (len a : Nat) : Prop := ∀ i < len, s.readableAddr i = some (a + i)

theorem State.chunkAt_of_page {s : State} {b : Word} {len : Nat} (hpool : s.pool = .allocated)
    (hb : s.par.pageBases[s.currentPage]? = some b) (hend : b.toNat + s.par.pageSize ≤ addressSpace)
    (hfits : len + s.pageOffset ≤ s.par.pageSize) : s.ChunkAt len (b.toNat + s.pageOffset) :=
  fun _ hi => State.readableAddr_of_page hpool hb hend (by omega)

/-- One answer taken, the consumer's answers are one byte further. -/
theorem State.sinkAhead_succ (s : State) (k : Nat) : s.sinkAhead (k + 1) = s.afterSink.sinkAhead k := by
  cases h : s.draws.sinks <;> simp [State.sinkAhead, State.afterSink_eq, h, Nat.add_assoc, Nat.add_comm 1]

theorem readerSteps_succ {s t : State} (h : readerStep s = .next t) (n : Nat) :
    readerSteps (n + 1) s = readerSteps n t := by
  simp only [readerSteps, h]

theorem readerSteps_add {s t : State} {n : Nat} (h : readerSteps n s = .next t) (k : Nat) :
    readerSteps (n + k) s = readerSteps k t := by
  induction n generalizing s with
  | zero => cases h; rw [Nat.zero_add]
  | succ n ih =>
    rw [Nat.succ_add]
    cases hs : readerStep s with
    | next u => rw [readerSteps_succ hs] at h ⊢; exact ih h
    | fault r => simp [readerSteps, hs] at h
    | refused r => simp [readerSteps, hs] at h

section

variable {len a : Nat}

/-- The `n + 1` bytes of a chunk not yet copied go to the consumer in ascending order, by induction on `n`. -/
theorem readerSteps_copy {n i : Nat} {s : State} {c : ReadCtx} (hchunk : s.ChunkAt len a)
    (hc : s.rdCtx = some c) (hph : c.phase = .copy len i) (hlen : i + (n + 1) = len)
    (hsink : ∀ k < n + 1, s.sinkAhead k = true) :
    ∃ d, readerSteps (n + 1) s = .next { s with
      draws := d, sink := s.sink ++ (List.range' i (n + 1)).map fun k => s.mem.read (a + k),
      rdCtx := some { c with phase := .zero len 0 } } := by
  have haccept : s.nextSink = true := s.sinkAhead_zero ▸ hsink 0 (by omega)
  have hstep := (readerStep_of_copy hc hph).trans (readCopy_of_accepted (hchunk i (by omega)) haccept)
  rw [readerSteps_succ hstep]
  cases n with
  | zero =>
    rw [if_neg (by omega)]
    exact ⟨_, rfl⟩
  | succ n =>
    rw [if_pos (by omega)]
    obtain ⟨d, hd⟩ := readerSteps_copy (n := n) (i := i + 1)
      (s := { s with draws := s.afterSink.draws, sink := s.sink ++ [s.mem.read (a + i)],
                     rdCtx := some { c with phase := .copy len (i + 1) } })
      hchunk rfl rfl (by omega) fun k hk => s.sinkAhead_succ k ▸ hsink (k + 1) (by omega)
    refine ⟨d, hd.trans ?_⟩
    rw [List.range'_succ (n := n + 1), List.map_cons, ← List.append_cons]

/-- The `n + 1` bytes of a chunk not yet zeroed become 0x00, and the chunk is committed, by induction on `n`. -/
theorem readerSteps_zero {n i : Nat} {s : State} {c : ReadCtx} (hchunk : s.ChunkAt len a)
    (hc : s.rdCtx = some c) (hph : c.phase = .zero len i) (hlen : i + (n + 1) = len) :
    readerSteps (n + 1) s = .next { s with
      mem := s.mem.writeBytes (a + i) (List.replicate (n + 1) 0#8), pos := s.pos + BitVec.ofNat 64 len,
      rdCtx := some { c with copied := c.copied + BitVec.ofNat 64 len, phase := .scan } } := by
  have ha := hchunk i (by omega)
  induction n generalizing s c i with
  | zero => exact readerSteps_succ ((readerStep_of_zero hc hph).trans (readZero_of_last ha (by omega))) 0
  | succ n ih =>
    rw [readerSteps_succ ((readerStep_of_zero hc hph).trans (readZero_of_not_last ha (by omega)))]
    exact ih (i := i + 1) (c := { c with phase := .zero len (i + 1) }) hchunk rfl rfl (by omega)
      (hchunk (i + 1) (by omega))

end

/-- Zeroed bytes read 0x00, every other one as before. -/
theorem Memory.read_writeBytes_zeros {m : Memory} (hm : m.wf = true) {a n : Nat} (hfit : a + n ≤ addressSpace)
    (x : Nat) :
    (m.writeBytes a (List.replicate n 0#8)).read x = if a ≤ x ∧ x < a + n then 0#8 else m.read x := by
  rw [Memory.read_writeBytes hm (by simpa using hfit), List.getElem?_replicate]
  by_cases hlo : a ≤ x
  · by_cases hhi : x - a < n
    · simp [hlo, hhi, show x < a + n by omega]
    · simp [hlo, hhi, show ¬ x < a + n by omega]
  · simp [hlo]

/-- Settles O51: the chunk's bytes are copied one by one, then zeroed one by one and committed. -/
theorem readDeliversAndPoisonsTheChunk : Obligations.ReadDeliversAndPoisonsTheChunk := by
  unfold Obligations.ReadDeliversAndPoisonsTheChunk
  intro s c len b ⟨hp, hsess, hread⟩ hm hc hph hb hsink
  obtain ⟨hopen, -, -, -, hphase⟩ := hread c hc
  rw [hph] at hphase
  obtain ⟨hpos, hfits, -, -⟩ := hphase
  obtain ⟨n, rfl⟩ : ∃ n, len = n + 1 := ⟨len - 1, by omega⟩
  obtain ⟨-, hend, -, -⟩ := page_placed_of_admissible hp (List.mem_of_getElem? hb)
  have hchunk := State.chunkAt_of_page (hsess hopen).1 hb hend hfits
  have hzeros := Memory.read_writeBytes_zeros hm (a := b.toNat + s.pageOffset) (n := n + 1) (by omega)
  obtain ⟨d, hcopied⟩ := readerSteps_copy hchunk hc hph (Nat.zero_add _) hsink
  have hzeroed := readerSteps_zero (s := { s with
      draws := d, sink := s.sink ++ (List.range' 0 (n + 1)).map fun k => s.mem.read (b.toNat + s.pageOffset + k),
      rdCtx := some { c with phase := .zero (n + 1) 0 } }) hchunk rfl rfl (Nat.zero_add _)
  rw [Nat.two_mul, readerSteps_add hcopied, hzeroed, ← List.range_eq_range']
  exact ⟨_, rfl, rfl, rfl, fun k hk => (hzeros _).trans (if_pos (by omega)),
    fun x hx => (hzeros x).trans (if_neg (by omega))⟩

/-! ## What a step of a READ can do, said once (42 R107 to R111) -/

/-- The next states of a READ in progress. -/
inductive ReadMove (c : ReadCtx) (s : State) : State → Prop where
  | chunk (hph : c.phase = .scan) (hmore : c.copied < c.max) (hcur : s.currentPage ≠ c.prod) :
      ReadMove c s (s.setReadPhase c (.copy (s.chunkLen c) 0))
  | done (hph : c.phase = .scan) (hend : c.copied = c.max ∨ c.blocking = false) :
      ReadMove c s (s.endRead (.okCount c.copied))
  | starve (hph : c.phase = .scan) (hne : c.copied ≠ c.max) (hblock : c.blocking = true) :
      ReadMove c s (s.setReadPhase c .resample)
  | deliver (len i a : Nat) (hph : c.phase = .copy len i) (ha : s.readableAddr i = some a)
      (hsink : s.nextSink = true) :
      ReadMove c s { s with
        draws := s.afterSink.draws, sink := s.sink ++ [s.mem.read a],
        rdCtx := some { c with phase := if i + 1 < len then .copy len (i + 1) else .zero len 0 } }
  | reject (len i : Nat) (hph : c.phase = .copy len i) (hsink : s.nextSink = false) :
      ReadMove c s { s with
        draws := (s.afterSink.spoilChunk len i).draws,
        sink := s.sink.take (s.sink.length - i) ++ s.afterSink.spoiledBytes len,
        rdCtx := none, results := s.results ++ [.fault c.copied] }
  | zero (len i a : Nat) (hph : c.phase = .zero len i) (ha : s.readableAddr i = some a) (hlast : i + 1 < len) :
      ReadMove c s { s with mem := s.mem.write a 0#8, rdCtx := some { c with phase := .zero len (i + 1) } }
  | commit (len i a : Nat) (hph : c.phase = .zero len i) (ha : s.readableAddr i = some a) (hlast : len ≤ i + 1) :
      ReadMove c s { s with
        mem := s.mem.write a 0#8, pos := s.pos + BitVec.ofNat 64 len,
        rdCtx := some { c with copied := c.copied + BitVec.ofNat 64 len, phase := .scan } }
  | ahead (hph : c.phase = .resample) (hcur : s.currentPage ≠ s.sampledPage) :
      ReadMove c s { s with dataReady := false, rdCtx := some { c with prod := s.sampledPage, phase := .scan } }
  | level (hph : c.phase = .resample) (hcur : s.currentPage = s.sampledPage) :
      ReadMove c s { s with dataReady := false, rdCtx := some { c with prod := s.sampledPage, phase := .waiting } }
  | wake (hph : c.phase = .waiting) (hready : s.dataReady = true) : ReadMove c s (s.setReadPhase c .resample)
  | wait (hph : c.phase = .waiting) (hready : s.dataReady = false) : ReadMove c s s

section

variable {s t : State} {c : ReadCtx} {len i : Nat}

theorem readScan_move (hph : c.phase = .scan) (h : readScan c s = .next t) : ReadMove c s t := by
  unfold readScan at h
  split_ifs at h with hgo hend <;> cases h
  · obtain ⟨hmore, hcur⟩ := hgo
    exact .chunk hph hmore hcur
  · exact .done hph hend
  · rw [not_or, Bool.not_eq_false] at hend
    obtain ⟨hne, hblock⟩ := hend
    exact .starve hph hne hblock

theorem readableAddr_of_readCopy (h : readCopy c len i s = .next t) : ∃ a, s.readableAddr i = some a := by
  cases ha : s.readableAddr i with
  | none => simp [readCopy, ha] at h
  | some a => exact ⟨a, rfl⟩

theorem readableAddr_of_readZero (h : readZero c len i s = .next t) : ∃ a, s.readableAddr i = some a := by
  cases ha : s.readableAddr i with
  | none => simp [readZero, ha] at h
  | some a => exact ⟨a, rfl⟩

theorem readCopy_move (hph : c.phase = .copy len i) (h : readCopy c len i s = .next t) : ReadMove c s t := by
  obtain ⟨a, ha⟩ := readableAddr_of_readCopy h
  cases hsink : s.nextSink with
  | true => rw [readCopy_of_accepted ha hsink] at h; cases h; exact .deliver len i a hph ha hsink
  | false => rw [readCopy_of_rejected ha hsink] at h; cases h; exact .reject len i hph hsink

theorem readZero_move (hph : c.phase = .zero len i) (h : readZero c len i s = .next t) : ReadMove c s t := by
  obtain ⟨a, ha⟩ := readableAddr_of_readZero h
  by_cases hlast : i + 1 < len
  · rw [readZero_of_not_last ha hlast] at h; cases h; exact .zero len i a hph ha hlast
  · rw [Nat.not_lt] at hlast
    rw [readZero_of_last ha hlast] at h; cases h; exact .commit len i a hph ha hlast

theorem readResample_move (hph : c.phase = .resample) (h : readResample c s = .next t) : ReadMove c s t := by
  by_cases hcur : s.currentPage = s.sampledPage
  · rw [readResample_of_level hcur] at h; cases h; exact .level hph hcur
  · rw [readResample_of_ahead hcur] at h; cases h; exact .ahead hph hcur

theorem readWaiting_move (hph : c.phase = .waiting) (h : readWaiting c s = .next t) : ReadMove c s t := by
  unfold readWaiting at h
  split_ifs at h with hready <;> cases h
  · exact .wake hph hready
  · exact .wait hph (Bool.eq_false_iff.2 hready)

/-- What the reader's step does when it answers a next state. -/
theorem readerStep_cases (h : readerStep s = .next t) :
    (s.rdCtx = none ∧ t = s) ∨ ∃ c, s.rdCtx = some c ∧ ReadMove c s t := by
  cases hc : s.rdCtx with
  | none =>
    simp only [readerStep, hc] at h
    cases h
    exact .inl ⟨rfl, rfl⟩
  | some c =>
    refine .inr ⟨c, rfl, ?_⟩
    cases hph : c.phase with
    | scan => exact readScan_move hph (readerStep_of_scan hc hph ▸ h)
    | copy len i => exact readCopy_move hph (readerStep_of_copy hc hph ▸ h)
    | zero len i => exact readZero_move hph (readerStep_of_zero hc hph ▸ h)
    | resample => exact readResample_move hph (readerStep_of_resample hc hph ▸ h)
    | waiting => exact readWaiting_move hph (readerStep_of_waiting hc hph ▸ h)

/-- What the Cancel agent's step does: nothing, or it ends the READ. -/
theorem cancelStep_cases (h : cancelStep s = .next t) : t = s ∨ t = s.endRead .interrupted := by
  unfold cancelStep at h
  split at h
  · cases h; exact .inl rfl
  · split_ifs at h <;> cases h
    · exact .inr rfl
    · exact .inl rfl

theorem Session.not_idle_iff {v : Session} : ¬ v = .idle ↔ v = .opened := by cases v <;> simp

theorem Session.not_opened_iff {v : Session} : ¬ v = .opened ↔ v = .idle := by cases v <;> simp

/-- What READ's entry does: it returns `WouldBlock`, or it brings a READ into progress. -/
theorem readEntry_cases {max : DWord} {blocking : Bool} (h : readEntry max blocking s = .next t) :
    s.sess = .opened ∧
    (t = s.returned .wouldBlock ∨
      (blocking = false → s.currentPage ≠ s.sampledPage) ∧
        t = s.setRdCtx (some ⟨max, blocking, 0#64, s.sampledPage, .scan⟩)) := by
  unfold readEntry at h
  split_ifs at h with hbad hnone <;> rw [not_or] at hbad
  · cases h; exact ⟨Session.not_idle_iff.1 hbad.1, .inl rfl⟩
  · cases h
    exact ⟨Session.not_idle_iff.1 hbad.1, .inr ⟨fun hblock hcur => hnone ⟨hcur, hblock⟩, rfl⟩⟩

theorem readerStep_frame (h : readerStep s = .next t) :
    t = { s with mem := t.mem, pos := t.pos, dataReady := t.dataReady, rdCtx := t.rdCtx, sink := t.sink,
                 results := t.results, draws := t.draws } := by
  obtain ⟨-, rfl⟩ | ⟨c, -, hmove⟩ := readerStep_cases h
  · rfl
  · cases hmove <;> rfl

/-- Settles O55: the frame of the reader's step, and the two next states of the entry and of the cancellation. -/
theorem readLeavesSessionAndRegisters : Obligations.ReadLeavesSessionAndRegisters := by
  unfold Obligations.ReadLeavesSessionAndRegisters
  rintro s t who h (rfl | rfl | ⟨max, blocking, rfl⟩)
  · exact readerStep_frame h
  · obtain rfl | rfl := cancelStep_cases h <;> rfl
  · obtain ⟨-, rfl | ⟨-, rfl⟩⟩ := readEntry_cases h <;> rfl

end

/-! ## The session's invariant (42 R102, R103, R107, R116) -/

/-- What the invariant speaks of: the parameters, `pool`, `sess`, `start_page`, `pos` and `rd_ctx`. -/
structure SessionView where
  par       : Params
  pool      : Pool
  sess      : Session
  startPage : Nat
  pos       : DWord
  rdCtx     : Option ReadCtx

def State.sessionView (s : State) : SessionView := ⟨s.par, s.pool, s.sess, s.startPage, s.pos, s.rdCtx⟩

section

variable {s t : State}

theorem State.SessionOk.of_view (hs : s.SessionOk) (h : t.sessionView = s.sessionView) : t.SessionOk := by
  obtain ⟨⟩ := s
  obtain ⟨⟩ := t
  simp only [State.sessionView, SessionView.mk.injEq] at h
  obtain ⟨rfl, rfl, rfl, rfl, rfl, rfl⟩ := h
  exact hs

/-- A READ in progress belongs to an open session, so an idle one has none. -/
theorem State.SessionOk.rdCtx_none_of_idle (hs : s.SessionOk) (hidle : s.sess = .idle) : s.rdCtx = none := by
  obtain ⟨-, -, hread⟩ := hs
  refine Option.eq_none_iff_forall_ne_some.2 fun c hc => ?_
  obtain ⟨hopen, -⟩ := hread c hc
  exact nomatch hidle.symm.trans hopen

theorem Pool.not_unallocated_iff {v : Pool} : ¬ v = .unallocated ↔ v = .allocated := by cases v <;> simp

/-- A turn that leaves session, pool and page index as they are has the READ to answer for. -/
theorem State.SessionOk.of_read (hs : s.SessionOk) (hpar : t.par = s.par) (hpool : t.pool = s.pool)
    (hsess : t.sess = s.sess) (hstart : t.startPage = s.startPage)
    (hread : ∀ c, t.rdCtx = some c → s.sess = .opened ∧ ReadCtxOk t c) : t.SessionOk := by
  obtain ⟨hp, hopen, -⟩ := hs
  refine ⟨hpar ▸ hp, fun h => ?_, fun c hc => ?_⟩
  · rw [hpool, hstart, hpar]; exact hopen (hsess ▸ h)
  · rw [hsess]; exact hread c hc

/-- With no READ in progress, the invariant is the open session's pool and page index. -/
theorem State.SessionOk.of_no_read (hp : s.par.Admissible) (hpar : t.par = s.par)
    (hopen : t.sess = .opened → t.pool = .allocated ∧ t.startPage < s.par.numPages) (hnone : t.rdCtx = none) :
    t.SessionOk :=
  ⟨hpar ▸ hp, hpar ▸ hopen, fun _ hc => nomatch hnone.symm.trans hc⟩

/-! ### The steps of a READ -/

/-- A chunk ends in the page it begins in, and within the request (42 R107). -/
theorem State.chunkLen_fits {c : ReadCtx} (hp : s.par.Admissible) (hle : c.copied ≤ c.max) :
    s.chunkLen c + s.pageOffset ≤ s.par.pageSize ∧ c.copied.toNat + s.chunkLen c ≤ c.max.toNat := by
  have hoff := State.pageOffset_lt hp
  have hle' := BitVec.le_def.1 hle
  rw [State.chunkLen_eq hle]
  omega

/-- A chunk that fits the request leaves `copied` the sum it is (42 R103). -/
theorem toNat_copied_add {c : ReadCtx} {len : Nat} (hfits : c.copied.toNat + len ≤ c.max.toNat) :
    (c.copied + BitVec.ofNat 64 len).toNat = c.copied.toNat + len := by
  have := c.max.isLt
  rw [BitVec.toNat_add, BitVec.toNat_ofNat, Nat.add_mod_mod, Nat.mod_eq_of_lt (by omega)]

theorem copied_lt_max {c : ReadCtx} (hle : c.copied ≤ c.max) (hne : c.copied ≠ c.max) : c.copied < c.max :=
  BitVec.lt_def.2 (Nat.lt_of_le_of_ne (BitVec.le_def.1 hle) (mt BitVec.eq_of_toNat_eq hne))

/-- The context after a chunk is committed: something is copied, so nothing is presumed of the page ahead. -/
theorem readCtxOk_committed {c : ReadCtx} {len : Nat} (hprod : c.prod < t.par.numPages) (hpos : 0 < len)
    (hfits : c.copied.toNat + len ≤ c.max.toNat) :
    ReadCtxOk t { c with copied := c.copied + BitVec.ofNat 64 len, phase := .scan } := by
  have hsum := toNat_copied_add hfits
  refine ⟨BitVec.le_def.2 (hsum ▸ hfits), hprod, fun _ hzero => ?_, trivial⟩
  have : (c.copied + BitVec.ofNat 64 len).toNat = 0 := congrArg BitVec.toNat hzero
  omega

/-- The context after a blocking READ has sampled the counter again. -/
theorem readCtxOk_resampled {c : ReadCtx} {ph : ReadPhase} (hle : c.copied ≤ c.max)
    (hprod : s.sampledPage < t.par.numPages) (hblock : c.blocking = true)
    (hph : ReadPhaseOk t { c with prod := s.sampledPage, phase := ph } ph) :
    ReadCtxOk t { c with prod := s.sampledPage, phase := ph } :=
  ⟨hle, hprod, fun h _ => absurd (hblock.symm.trans h) nofun, hph⟩

/-- Each move of a READ leaves its context in order. -/
theorem ReadMove.keeps_readCtxOk {c : ReadCtx} (h : ReadMove c s t) (hp : s.par.Admissible) (hc : s.rdCtx = some c)
    (hok : ReadCtxOk s c) : ∀ c', t.rdCtx = some c' → ReadCtxOk t c' := by
  have ⟨hle, hprod, hahead, hphase⟩ := hok
  intro c' hc'
  cases h with
  | chunk _ hmore hcur =>
    cases hc'
    obtain ⟨hpage, hreq⟩ := State.chunkLen_fits hp hle
    exact ⟨hle, hprod, hahead, State.chunkLen_pos hp hmore, hpage, hreq, hcur⟩
  | done | reject => cases hc'
  | starve _ hne hblock =>
    cases hc'
    exact ⟨hle, hprod, hahead, hblock, copied_lt_max hle hne⟩
  | deliver len i a hph =>
    cases hc'
    rw [hph] at hphase
    obtain ⟨hi, hfits⟩ := hphase
    refine ⟨hle, hprod, hahead, ?_⟩
    dsimp only
    split
    next hi' => exact ⟨hi', hfits⟩
    next => exact ⟨by omega, hfits⟩
  | zero len i a hph _ hlast =>
    cases hc'
    rw [hph] at hphase
    obtain ⟨-, hfits⟩ := hphase
    exact ⟨hle, hprod, hahead, hlast, hfits⟩
  | commit len i a hph =>
    cases hc'
    rw [hph] at hphase
    obtain ⟨hi, -, hreq, -⟩ := hphase
    exact readCtxOk_committed hprod (by omega) hreq
  | ahead hph =>
    cases hc'
    rw [hph] at hphase
    exact readCtxOk_resampled hle (State.sampledPage_lt hp) hphase.1 trivial
  | level hph =>
    cases hc'
    rw [hph] at hphase
    exact readCtxOk_resampled hle (State.sampledPage_lt hp) hphase.1 hphase
  | wake hph =>
    cases hc'
    rw [hph] at hphase
    exact ⟨hle, hprod, hahead, hphase⟩
  | wait =>
    cases hc.symm.trans hc'
    exact hok

theorem readerStep_keeps_sessionOk (h : readerStep s = .next t) (hs : s.SessionOk) : t.SessionOk := by
  obtain ⟨-, rfl⟩ | ⟨c, hc, hmove⟩ := readerStep_cases h
  · exact hs
  · have ⟨hp, _, hread⟩ := hs
    obtain ⟨hopen, hok⟩ := hread c hc
    obtain ⟨hpar, hpool, hsess, hstart⟩ : t.par = s.par ∧ t.pool = s.pool ∧ t.sess = s.sess ∧
        t.startPage = s.startPage := by
      rw [readerStep_frame h]; exact ⟨rfl, rfl, rfl, rfl⟩
    exact hs.of_read hpar hpool hsess hstart fun c' hc' => ⟨hopen, hmove.keeps_readCtxOk hp hc hok c' hc'⟩

theorem cancelStep_keeps_sessionOk (h : cancelStep s = .next t) (hs : s.SessionOk) : t.SessionOk := by
  obtain rfl | rfl := cancelStep_cases h
  · exact hs
  · exact hs.of_read rfl rfl rfl rfl nofun

/-- A READ begins with nothing copied and, where it does not block, with data ahead (42 R106). -/
theorem readEntry_keeps_sessionOk {max : DWord} {blocking : Bool} (h : readEntry max blocking s = .next t)
    (hs : s.SessionOk) : t.SessionOk := by
  obtain ⟨hopen, rfl | ⟨hahead, rfl⟩⟩ := readEntry_cases h
  · exact hs.of_view rfl
  · have ⟨hp, _, _⟩ := hs
    refine hs.of_read rfl rfl rfl rfl fun c hc => ⟨hopen, ?_⟩
    cases hc
    exact ⟨BitVec.le_def.2 (Nat.zero_le _), State.sampledPage_lt hp, fun hblock _ => hahead hblock, trivial⟩

/-! ### The host's other commands -/

/-- OPEN's page index is a page, and a session that was idle has no READ. -/
theorem openSession_keeps_sessionOk (h : openSession s = .next t) (hs : s.SessionOk) : t.SessionOk := by
  have ⟨hp, _, _⟩ := hs
  by_cases hpool : s.pool = .unallocated
  · simp [openSession, hpool] at h
  · by_cases hsess : s.sess = .opened
    · simp only [openSession, hpool, hsess, if_true, if_false] at h
      cases h
      exact hs.of_view rfl
    · have hidle : s.sess = .idle := Session.not_opened_iff.1 hsess
      rw [openSession_of_idle (Pool.not_unallocated_iff.1 hpool) hidle] at h
      cases h
      exact .of_no_read hp rfl (fun _ => ⟨Pool.not_unallocated_iff.1 hpool, State.sampledPage_lt hp⟩)
        (hs.rdCtx_none_of_idle hidle)

theorem close_keeps_sessionOk (h : close s = .next t) (hs : s.SessionOk) : t.SessionOk := by
  have ⟨hp, _, _⟩ := hs
  by_cases hbad : s.sess = .idle ∨ s.rdCtx ≠ none
  · rw [close, if_pos hbad] at h
    cases h
  · rw [not_or, Session.not_idle_iff, not_ne_iff] at hbad
    obtain ⟨hopen, hnone⟩ := hbad
    rw [close_of_open hopen hnone] at h
    cases h
    exact .of_no_read hp rfl nofun hnone

/-- FREE takes the pool from no open session (41 R85), and an idle one has no READ. -/
theorem free_keeps_sessionOk (h : free s = .next t) (hs : s.SessionOk) : t.SessionOk := by
  have ⟨hp, _, _⟩ := hs
  by_cases huse : s.engRun = .running ∨ s.sess = .opened
  · rw [free, if_pos huse] at h
    cases h
  · rw [not_or, Session.not_opened_iff] at huse
    obtain ⟨hrun, hidle⟩ := huse
    cases ((freeOutcomes s).2 (EngRun.eq_stopped_of_ne_running hrun) hidle).symm.trans h
    exact .of_no_read hp rfl (fun hopen => nomatch hidle.symm.trans hopen) (hs.rdCtx_none_of_idle hidle)

theorem allocate_keeps_sessionOk {capacity pageSize : Nat} (h : allocate capacity pageSize s = .next t)
    (hs : s.SessionOk) : t.SessionOk := by
  have ⟨hp, hopen, hread⟩ := hs
  unfold allocate at h
  split_ifs at h <;> cases h
  · exact hs.of_view rfl
  · exact hs.of_view rfl
  · rw [State.fillPages_eq, State.afterAlloc_eq]
    exact ⟨hp, fun h => ⟨rfl, (hopen h).2⟩, hread⟩
  · rw [State.afterAlloc_eq]
    exact hs.of_view rfl

/-! ### The turns that leave the session alone -/

theorem State.writeDmaEn_sessionView (s : State) (v : Bool) : (s.writeDmaEn v).sessionView = s.sessionView := by
  unfold State.writeDmaEn
  split <;> rfl

theorem State.storeReg_sessionView (s : State) (r : Reg) (v : Word) :
    (s.storeReg r v).sessionView = s.sessionView := by
  cases r
  case devCntrl => exact s.writeDmaEn_sessionView _
  all_goals rfl

theorem engineStep_sessionView (h : engineStep s = .next t) : t.sessionView = s.sessionView := by
  rw [engineStep_frame h]; rfl

theorem buildCdt_sessionView (h : buildCdt s = .next t) : t.sessionView = s.sessionView := by
  unfold buildCdt at h
  split_ifs at h <;> cases h <;> rfl

theorem buildProgram_sessionView (h : buildProgram s = .next t) : t.sessionView = s.sessionView := by
  unfold buildProgram at h
  split_ifs at h <;> cases h <;> rfl

theorem start_sessionView (h : start s = .next t) : t.sessionView = s.sessionView := by
  unfold start at h
  split_ifs at h with hrun <;> cases h
  · rfl
  · rw [State.launch_of_stopped (EngRun.eq_stopped_of_ne_running hrun)]; rfl

theorem stop_sessionView (h : stop s = .next t) : t.sessionView = s.sessionView := by
  cases h
  exact s.writeDmaEn_sessionView false

theorem hostRegRead_sessionView {offset width : Nat} (h : hostRegRead offset width s = .next t) :
    t.sessionView = s.sessionView := by
  unfold hostRegRead at h
  split_ifs at h
  split at h <;> cases h; rfl

theorem hostRegWrite_sessionView {offset width : Nat} {value : Word} (h : hostRegWrite offset width value s = .next t) :
    t.sessionView = s.sessionView := by
  obtain ⟨r, -, rfl⟩ := hostRegWrite_cases h
  exact s.storeReg_sessionView r value

theorem ackStep_sessionView (h : ackStep s = .next t) : t.sessionView = s.sessionView := by
  unfold ackStep at h
  split_ifs at h <;> cases h <;> rfl

/-! ### Any turn -/

theorem commandStep_keeps_sessionOk {c : Command} (h : commandStep c s = .next t) (hs : s.SessionOk) :
    t.SessionOk := by
  cases c with
  | allocate => exact allocate_keeps_sessionOk h hs
  | free => exact free_keeps_sessionOk h hs
  | buildCdt => exact hs.of_view (buildCdt_sessionView h)
  | buildProgram => exact hs.of_view (buildProgram_sessionView h)
  | start => exact hs.of_view (start_sessionView h)
  | stop => exact hs.of_view (stop_sessionView h)
  | openSession => exact openSession_keeps_sessionOk h hs
  | read => exact readEntry_keeps_sessionOk h hs
  | close => exact close_keeps_sessionOk h hs
  | regRead => exact hs.of_view (hostRegRead_sessionView h)
  | regWrite => exact hs.of_view (hostRegWrite_sessionView h)

theorem turnStep_keeps_sessionOk {who : Turn} (h : turnStep who s = .next t) (hs : s.SessionOk) : t.SessionOk := by
  cases who with
  | engine => exact hs.of_view (engineStep_sessionView h)
  | syncWait => cases h; exact hs
  | command c => exact commandStep_keeps_sessionOk h hs
  | reader => exact readerStep_keeps_sessionOk h hs
  | ack => exact hs.of_view (ackStep_sessionView h)
  | cancel => exact cancelStep_keeps_sessionOk h hs

end

/-- Settles O23: of the turns that touch the session, each move of a READ keeps its context in order, and OPEN, CLOSE,
READ's entry, ALLOCATE and FREE check what the invariant asks. -/
theorem everyStepKeepsTheSession : Obligations.EveryStepKeepsTheSession := by
  unfold Obligations.EveryStepKeepsTheSession
  intro s t hs h
  exact turnStep_keeps_sessionOk (s := s.setAgenda s.nextTurn.2) h hs

end Sys2Proof.Machine

/-! # Setup errors and the interrupt line (60_exceptions R122, R126, R127) -/

namespace Sys2Proof.Machine

open Sys2Proof

/-! ## How a host command ends (60 R121, R122) -/

/-- `ConfigurationError` or `AllocationError`, the results R122 calls setup errors. -/
abbrev Result.IsSetupError (r : Result) : Prop := r = .configurationError ∨ r = .allocationError

/-- How a host command that is not refused ends: in a setup error, which leaves all but the results and the draws (60
R122), in another result, or, for READ's entry and the raw register accesses, without a result. -/
inductive CommandEnd (s t : State) : Prop where
  | setupError (r : Result) (hr : r.IsSetupError) (h : t = { s with results := s.results ++ [r], draws := t.draws })
  | result (r : Result) (hr : ¬ r.IsSetupError) (h : t.results = s.results ++ [r])
  | noResult (h : t.results = s.results)

section

variable {s t : State}

/-- The result a command added is the one it ended in. -/
theorem CommandEnd.frame_of_setupError (h : CommandEnd s t) {r : Result} (hres : t.results = s.results ++ [r])
    (hr : r.IsSetupError) : t = { s with results := t.results, draws := t.draws } := by
  cases h with
  | setupError _ _ h => rw [h]
  | result r' hr' h =>
    have hsame : r' = r := by simpa using h.symm.trans hres
    exact absurd (hsame ▸ hr) hr'
  | noResult h => simp [h] at hres

theorem CommandEnd.of_returned {u : State} {r : Result} (hu : u.results = s.results) (hr : ¬ r.IsSetupError) :
    CommandEnd s (u.returned r) :=
  .result r hr (by simp [State.returned, hu])

/-! ### The register window keeps the results -/

theorem State.writeDmaEn_results (s : State) (v : Bool) : (s.writeDmaEn v).results = s.results := by
  unfold State.writeDmaEn
  split <;> rfl

theorem State.storeReg_results (s : State) (r : Reg) (v : Word) : (s.storeReg r v).results = s.results := by
  cases r
  case devCntrl => exact s.writeDmaEn_results _
  all_goals rfl

theorem State.launch_results (s : State) : s.launch.results = s.results := State.writeDmaEn_results _ true

/-! ### The setup commands (41 R84, R86, R88, R98) -/

theorem allocate_end {capacity pageSize : Nat} (h : allocate capacity pageSize s = .next t) : CommandEnd s t := by
  unfold allocate at h
  split_ifs at h <;> cases h
  · exact .setupError .configurationError (.inl rfl) rfl
  · exact .setupError .configurationError (.inl rfl) rfl
  · exact .of_returned (by simp [State.fillPages_eq, State.afterAlloc_eq]) (by decide)
  · exact .setupError .allocationError (.inr rfl) (by simp [State.returned, State.afterAlloc_eq, State.setResults])

theorem buildCdt_end (h : buildCdt s = .next t) : CommandEnd s t := by
  unfold buildCdt at h
  split_ifs at h <;> cases h
  · exact .setupError .configurationError (.inl rfl) rfl
  · exact .of_returned rfl (by decide)

theorem buildProgram_end (h : buildProgram s = .next t) : CommandEnd s t := by
  unfold buildProgram at h
  split_ifs at h <;> cases h
  · exact .setupError .configurationError (.inl rfl) rfl
  · exact .setupError .configurationError (.inl rfl) rfl
  · exact .setupError .configurationError (.inl rfl) rfl
  · exact .of_returned rfl (by decide)

theorem start_end (h : start s = .next t) : CommandEnd s t := by
  unfold start at h
  split_ifs at h <;> cases h
  · exact .setupError .configurationError (.inl rfl) rfl
  · exact .of_returned s.launch_results (by decide)

/-! ### The commands that return no setup error (41 R85, R99; 42 R104, R106, R114) -/

theorem free_end (h : free s = .next t) : CommandEnd s t := by
  unfold free at h
  split_ifs at h; cases h
  exact .of_returned rfl (by decide)

theorem stop_end (h : stop s = .next t) : CommandEnd s t := by
  cases h
  exact .of_returned (s.writeDmaEn_results false) (by decide)

theorem openSession_end (h : openSession s = .next t) : CommandEnd s t := by
  unfold openSession at h
  split_ifs at h <;> cases h
  · exact .of_returned rfl (by decide)
  · exact .of_returned (by simp) (by decide)

theorem close_end (h : close s = .next t) : CommandEnd s t := by
  unfold close at h
  split_ifs at h; cases h
  exact .of_returned rfl (by decide)

theorem readEntry_end {max : DWord} {blocking : Bool} (h : readEntry max blocking s = .next t) : CommandEnd s t := by
  obtain ⟨-, rfl | ⟨-, rfl⟩⟩ := readEntry_cases h
  · exact .of_returned rfl (by decide)
  · exact .noResult rfl

theorem hostRegRead_end {offset width : Nat} (h : hostRegRead offset width s = .next t) : CommandEnd s t := by
  unfold hostRegRead at h
  split_ifs at h
  split at h <;> cases h
  exact .noResult rfl

theorem hostRegWrite_end {offset width : Nat} {value : Word} (h : hostRegWrite offset width value s = .next t) :
    CommandEnd s t := by
  obtain ⟨r, -, rfl⟩ := hostRegWrite_cases h
  exact .noResult (s.storeReg_results r value)

theorem commandStep_end {c : Command} (h : commandStep c s = .next t) : CommandEnd s t := by
  cases c with
  | allocate => exact allocate_end h
  | free => exact free_end h
  | buildCdt => exact buildCdt_end h
  | buildProgram => exact buildProgram_end h
  | start => exact start_end h
  | stop => exact stop_end h
  | openSession => exact openSession_end h
  | read => exact readEntry_end h
  | close => exact close_end h
  | regRead => exact hostRegRead_end h
  | regWrite => exact hostRegWrite_end h

end

/-- Settles O42: a command's end says what a setup error keeps. -/
theorem setupErrorsLeaveTheBlock : Obligations.SetupErrorsLeaveTheBlock := by
  unfold Obligations.SetupErrorsLeaveTheBlock
  intro s t c r h hres hr
  exact (commandStep_end h).frame_of_setupError hres hr

/-! ## The fair acknowledger (60 R126, R127) -/

theorem scheduledRun_succ {sched : Nat → Turn} {s t u : State} {n : Nat} (hrun : scheduledRun sched s n = some t)
    (hstep : turnStep (sched n) t = .next u) : scheduledRun sched s (n + 1) = some u := by
  simp only [scheduledRun, hrun, hstep]

/-- Settles O57: at the point fairness gives, the line is down already or the acknowledger's step takes it down. -/
theorem fairAcknowledgerKeepsTheLineDown : Obligations.FairAcknowledgerKeepsTheLineDown := by
  unfold Obligations.FairAcknowledgerKeepsTheLineDown
  intro sched s hfair hgoesOn n
  obtain ⟨m, hnm, hack⟩ := hfair n
  obtain ⟨t, hrun⟩ := Option.ne_none_iff_exists'.1 (hgoesOn m)
  cases hline : t.irqLine with
  | false => exact ⟨m, t, hnm, hrun, hline⟩
  | true =>
    have hturn : turnStep (sched m) t = .next { t with irq1Stat := false, dataReady := true } := by
      rw [hack t hrun hline]
      exact ackStep_of_line_up hline
    exact ⟨m + 1, _, Nat.le_succ_of_le hnm, scheduledRun_succ hrun hturn, by simp [State.irqLine]⟩

end Sys2Proof.Machine

/-! # Who starts and stops the engine, what ALLOCATE's pages hold, the host's register writes, and the invariants at reset
(10_state R21, R30, R35; 41 R84; 70_reset R138) -/

namespace Sys2Proof.Machine

open Sys2Proof

/-! ## What every turn leaves (10_state R21, 00_scope R8) -/

theorem turnStep_par {s t : State} {who : Turn} (h : turnStep who s = .next t) : t.par = s.par := by
  by_cases hw : who = .engine
  · subst hw
    exact congrArg SessionView.par (engineStep_sessionView h)
  · exact (turnStep_engineChange h hw).par_eq

/-- Settles O28: the step's turn, taken on the rest of the agenda, keeps them. -/
theorem noStepChangesTheParameters : Obligations.NoStepChangesTheParameters := by
  unfold Obligations.NoStepChangesTheParameters
  intro s t h
  exact turnStep_par (s := s.setAgenda s.nextTurn.2) h

/-- The engine neither starts nor stops itself. -/
theorem engineStep_engRun {s t : State} (h : engineStep s = .next t) : t.engRun = s.engRun := by
  rw [engineStep_frame h]

/-- Settles O20: of the changes another agent's turn can make to the engine, those of `eng_run` are the turns named. -/
theorem onlyStartAndStopChangeTheEngineRun : Obligations.OnlyStartAndStopChangeTheEngineRun := by
  unfold Obligations.OnlyStartAndStopChangeTheEngineRun
  intro s t who h hne
  have hw : who ≠ .engine := by
    rintro rfl
    exact hne (engineStep_engRun h)
  cases turnStep_engineChange h hw with
  | same hview => exact absurd (congrArg EngineView.engRun hview) hne
  | start => exact .inl rfl
  | stop => exact .inr (.inl rfl)
  | rawStart v | rawStop v => exact .inr (.inr ⟨v, rfl⟩)

/-! ## The pages ALLOCATE obtains (41 R84, 10_state R35; log entry 17) -/

/-- An address is covered where it lies in a page and below the top of the address space. -/
theorem pageCovers_byte_iff (p : Params) (a : Nat) :
    pageCovers p a 1 = true ↔ (∃ b ∈ p.pageBases, b.toNat ≤ a ∧ a < b.toNat + p.pageSize) ∧ a < addressSpace := by
  simp [pageCovers]

/-- The last byte the environment supplies for an address, `old` where it supplies none. -/
def lastSupplied (cells : List Host.Cell) (a : Nat) (old : Byte) : Byte :=
  (cells.reverse.find? fun c => c.1 == a).elim old Prod.snd

/-- An entry counts where no later one is for the same address. -/
theorem lastSupplied_cons (k : Nat) (c : Byte) (cells : List Host.Cell) (a : Nat) (old : Byte) :
    lastSupplied ((k, c) :: cells) a old = lastSupplied cells a (if a = k then c else old) := by
  rw [lastSupplied, lastSupplied, List.reverse_cons, List.find?_append]
  cases cells.reverse.find? fun c => c.1 == a with
  | some e => rfl
  | none =>
    by_cases hk : a = k
    · simp [hk]
    · simp [hk, Ne.symm hk]

/-- Filling the pages writes a page's address once per entry for it, and the last of them stays. -/
theorem read_fillCells_of_covered {p : Params} {m : Memory} (hm : m.wf = true) (cells : List Host.Cell) {a : Nat}
    (ha : pageCovers p a 1 = true) : (fillCells p m cells).read a = lastSupplied cells a (m.read a) := by
  induction cells generalizing m with
  | nil => rfl
  | cons e cells ih =>
    obtain ⟨k, c⟩ := e
    rw [fillCells, lastSupplied_cons]
    by_cases hk : pageCovers p k 1 = true
    · have hlt : k < addressSpace := ((pageCovers_byte_iff p k).1 hk).2
      rw [if_pos hk, ih (Memory.wf_write hm hlt c), Memory.read_write hm]
    · have hne : k ≠ a := by
        rintro rfl
        exact hk ha
      rw [if_neg hk, if_neg hne.symm, ih hm]

theorem Pool.not_allocated_iff {v : Pool} : ¬ v = .allocated ↔ v = .unallocated := by cases v <;> simp

/-- What ALLOCATE does to pool and memory: it obtains the pages and fills them with what the environment supplies, or it
returns an error and leaves both, the pool being unallocated. -/
theorem allocate_cases {capacity pageSize : Nat} {s t : State} (h : allocate capacity pageSize s = .next t) :
    t.pool = .allocated ∧ t.mem = fillCells s.par s.mem (s.draws.fills.head?.getD []) ∨
      t.pool = .unallocated ∧ t.mem = s.mem := by
  unfold allocate at h
  split_ifs at h with _ hpool <;> cases h
  · exact .inr ⟨Pool.not_allocated_iff.1 hpool, rfl⟩
  · exact .inr ⟨Pool.not_allocated_iff.1 hpool, rfl⟩
  · exact .inl ⟨rfl, by rw [State.fillPages_eq, State.afterAlloc_eq]; rfl⟩
  · rw [State.afterAlloc_eq]
    exact .inr ⟨Pool.not_allocated_iff.1 hpool, rfl⟩

/-- Settles O32: ALLOCATE at most fills the pages, which is one write per supplied byte inside them. -/
theorem allocateLeavesOtherMemory : Obligations.AllocateLeavesOtherMemory := by
  unfold Obligations.AllocateLeavesOtherMemory
  intro s t capacity pageSize hm h
  obtain ⟨-, hmem⟩ | ⟨hpool, hmem⟩ := allocate_cases h <;> rw [hmem]
  · refine ⟨fun hfills => by rw [hfills]; rfl, fun cells rest hfills _ b hb a hlo hhi htop => ?_, fun a hout => ?_⟩
    · rw [hfills]
      refine (read_fillCells_of_covered hm cells ((pageCovers_byte_iff _ a).2 ⟨⟨b, hb, hlo, hhi⟩, htop⟩)).trans ?_
      unfold lastSupplied
      cases cells.reverse.find? fun c => c.1 == a <;> rfl
    · refine read_fillCells hm _ (Bool.eq_false_iff.2 fun hcov => ?_)
      obtain ⟨⟨b, hb, hlo, hhi⟩, -⟩ := (pageCovers_byte_iff _ a).1 hcov
      have := hout b hb
      omega
  · exact ⟨fun _ => rfl, fun _ _ _ halloc => by simp [hpool] at halloc, fun _ _ => rfl⟩

/-! ## The host's write of a register (10_state R30, 20_memory R43) -/

theorem hostRegWrite_off {s : State} (hp : s.par.Admissible) (r : Reg) (v : Word) :
    hostRegWrite (s.par.regOff.off r) 32 v s = .next (s.storeReg r v) := by
  simp [hostRegWrite, regAccessOk_off hp, regAt_off hp]

/-- `IRQ1_STAT` is cleared by writing 1. -/
theorem State.storeReg_vidIntstat_one {s : State} {v : Word}
    (hv : v.getLsbD s.par.fieldBit.irq1Stat.val = true) :
    s.storeReg .vidIntstat v = { s with irq1Stat := false } := by
  rw [State.storeReg, hv, Bool.not_true, Bool.and_false]
  rfl

/-- `IRQ1_STAT` stays under a write of 0. -/
theorem State.storeReg_vidIntstat_zero {s : State} {v : Word}
    (hv : v.getLsbD s.par.fieldBit.irq1Stat.val = false) : s.storeReg .vidIntstat v = s := by
  rw [State.storeReg, hv, Bool.not_false, Bool.and_true]
  rfl

/-- Settles O59: an admissible offset finds its register, and `storeReg` has each register's effect. -/
theorem regWriteChangesTheField : Obligations.RegWriteChangesTheField := by
  unfold Obligations.RegWriteChangesTheField
  intro s r v hp
  have hanswer : turnStep (.command (.regWrite (s.par.regOff.off r) 32 v)) s = .next (s.storeReg r v) :=
    hostRegWrite_off hp r v
  simp only [hanswer]
  refine ⟨?_, ?_, ?_, ?_, ?_, ?_, ?_, ?_, ?_, ?_, ?_⟩ <;> rintro rfl
  · intro hsame
    rw [State.storeReg, hsame, State.writeDmaEn_same]
  · intro hset hstop
    rw [State.storeReg, hset, State.writeDmaEn_start hstop]
  · intro hclear hrun
    rw [State.storeReg, hclear, State.writeDmaEn_stop hrun]
  · rfl
  · rfl
  · exact fun hone => congrArg _ (State.storeReg_vidIntstat_one hone)
  · exact fun hzero => congrArg _ (State.storeReg_vidIntstat_zero hzero)
  · rfl
  · rfl
  · rfl
  · rfl

/-! ## The invariants at reset (70_reset R138) -/

section

variable {s : State} (hs : s.IsReset) (hp : s.par.Admissible)
include hs hp

theorem State.IsReset.epcAligned : s.EpcAligned := by
  obtain ⟨hstop, -⟩ := hs
  obtain ⟨-, -, -, hbase, -⟩ := hp
  exact ⟨hbase, fun hrun => nomatch hstop.symm.trans hrun⟩

theorem State.IsReset.sessionOk : s.SessionOk := by
  obtain ⟨-, -, hidle, -, -, hnone, -⟩ := hs
  exact .of_no_read hp rfl (fun hopen => nomatch hidle.symm.trans hopen) hnone

theorem State.IsReset.programRunOk
    (hapart : Apart s.par.progBase.toNat s.par.progBufSize s.par.cdtBase.toNat s.par.cdtBytes) :
    s.ProgramRunOk := by
  obtain ⟨hstop, -, -, -, -, -, -, -, hprog, -⟩ := hs
  exact ⟨hp, hapart, by simp [hprog], by simp [hstop]⟩

end

theorem Params.standard_admissible : Params.standard.Admissible := by decide

/-- Settles O29: nothing runs, is built or is open at reset, and the model's reset state is one the spec admits. -/
theorem invariantsHoldAtReset : Obligations.InvariantsHoldAtReset := by
  unfold Obligations.InvariantsHoldAtReset
  have hreset : State.reset.IsReset := resetIsAsTheSpecSays.1
  have hp : State.reset.par.Admissible := Params.standard_admissible
  exact ⟨rfl, hreset.epcAligned hp, hreset.sessionOk hp, hreset.programRunOk hp (by decide),
    fun _ hs hp => ⟨hs.epcAligned hp, hs.sessionOk hp, hs.programRunOk hp⟩⟩

end Sys2Proof.Machine
